-- ==== Sys2Proof/Word.lean ====
section
/-! DEFINITION. The words of the block: bytes, the wider fields the frames carry, and frames
(spec R7, R8). Every port moves whole bytes (R43), so a frame is a list of bytes, byte 0 first. -/

namespace Sys2Proof

/-- An 8-bit value: a frame byte, a CRC, a chip opcode. -/
abbrev Byte := BitVec 8

/-- A 16-bit value: a channel (R7). -/
abbrev Half := BitVec 16

/-- A 32-bit value: a control-packet opcode, the field that holds FRAC (R7). -/
abbrev Word := BitVec 32

/-- A request or response frame, the first byte on the wire first (R8, R60, R66). -/
abbrev Frame := List Byte

end Sys2Proof
end

