-- ==== Sys2Proof/Machine/Operands.lean ====
section
/-! DEFINITION. The operand and result byte layouts: every multi-byte field is big-endian, assembled
from and split into whole bytes (spec R8, R42, R43, R64). -/

namespace Sys2Proof.Machine

/-- `BE16(v)`: `[v[15:8], v[7:0]]` (R8). -/
def be16 (v : Half) : List Byte :=
  [v.extractLsb' 8 8, v.extractLsb' 0 8]

/-- `BE32(v)`: `[v[31:24], v[23:16], v[15:8], v[7:0]]` (R8). -/
def be32 (v : Word) : List Byte :=
  [v.extractLsb' 24 8, v.extractLsb' 16 8, v.extractLsb' 8 8, v.extractLsb' 0 8]

/-- The low three bytes of `BE32(v)`: `[v[23:16], v[15:8], v[7:0]]` (R68, R73). -/
def be24 (v : Word) : List Byte :=
  [v.extractLsb' 16 8, v.extractLsb' 8 8, v.extractLsb' 0 8]

/-- The eight bytes of a binary64 bit pattern, most significant byte first (R68, D21). -/
def be64 (v : BitVec 64) : List Byte :=
  [v.extractLsb' 56 8, v.extractLsb' 48 8, v.extractLsb' 40 8, v.extractLsb' 32 8,
   v.extractLsb' 24 8, v.extractLsb' 16 8, v.extractLsb' 8 8, v.extractLsb' 0 8]

/-- A 16-bit field from its bytes: `hi·2^8 + lo` (R64). -/
def ofBe16 (hi lo : Byte) : Half := hi ++ lo

/-- A 32-bit field from its bytes, the first one most significant (R64). -/
def ofBe32 (b3 b2 b1 b0 : Byte) : Word := b3 ++ b2 ++ b1 ++ b0

/-- `u8(v) = v mod 2^8` (R8). -/
def u8 (v : Int) : Byte := BitVec.ofInt 8 v

/-- `u32(v) = v mod 2^32` (R8). -/
def u32 (v : Int) : Word := BitVec.ofInt 32 v

end Sys2Proof.Machine
end

