-- ==== Sys2Proof/Config.lean ====
section
/-! DEFINITION. The implementation parameters of spec R6. The fixed ones are plain numbers. The
OPEN ones (`CRC_TABLE`, `CTS_MAX_POLLS`, `OP_READ_CMD_BUFF`, `TIME_UNIT`) are one record that State
carries (R31 lists them among the reset values, R201 fixes them before reset is released), so every
statement over states is a statement over every choice of them; the values they have after reset
are constants with no body. The free values at the end answer for the chip where no
known input is left (R140, D27, D14). -/

namespace Sys2Proof

/-- `CRC_TABLE`: 256 bytes, one for each byte value (R6, R102). -/
abbrev CrcTable := Vector Byte 256

/-- `CTS_MAX_POLLS`: a positive integer, or `unbounded`, the original source (R6, R149, D10). -/
inductive PollBound where
  | bounded (most : PNat)
  | unbounded
  deriving DecidableEq, Repr, Inhabited

/-- The OPEN parameters of R6. No rule reads `timeUnit` (R211, I4). -/
structure Params where
  crcTable : CrcTable
  ctsMaxPolls : PollBound
  opReadCmdBuff : Byte
  timeUnit : Nat
  deriving DecidableEq, Repr

namespace Config

/-! ### Fixed parameters (R6) -/

/-- `CRC_INIT`. -/
def crcInit : Byte := 0xFF
/-- `CRC_POLY`; documentary only, it does not fix `CRC_TABLE` (R6). -/
def crcPoly : Byte := 0x8D
/-- `PKT_LEN`. -/
def pktLen : Nat := 7
/-- `CH_MIN`. -/
def chMin : Nat := 1
/-- `CH_MAX`. -/
def chMax : Nat := 10111
/-- `CH_SPLIT`: the high branch is `channel > CH_SPLIT`. -/
def chSplit : Nat := 8862
/-- `FC_HI_MUL`. -/
def fcHiMul : Nat := 2
/-- `FC_HI_ADD`. -/
def fcHiAdd : Nat := 10658
/-- `FC_LO_ADD`. -/
def fcLoAdd : Nat := 19520
/-- `F_BASE`, the single constant 43 (90_conflicts.md C8). -/
def fBase : Nat := 43
/-- `F_DIV`. -/
def fDiv : Nat := 64000
/-- `F_MUL`. -/
def fMul : Nat := 10
/-- `HZ_PER_MHZ`, 1e6. -/
def hzPerMhz : Nat := 1000000
/-- `XTAL_HZ`, 0x01C9C380. -/
def xtalHz : Nat := 30000000
/-- `PLL_OUTDIV`. -/
def pllOutdiv : Nat := 8
/-- `FRAC_SCALE`, 2^19. -/
def fracScale : Nat := 524288
/-- `CTS_READY`, the all-ones sentinel. -/
def ctsReady : Byte := 0xFF
/-- `POLL_INTERVAL`, in time units. -/
def pollInterval : Nat := 20
/-- `MAX_CRC_LEN`, `MAX_NARGS` and `MAX_RLEN` are 255 each (D24, D36). -/
def maxCrcLen : Nat := 255
def maxNargs : Nat := 255
def maxRlen : Nat := 255

/-! ### Open parameters (R6: "A model takes the OPEN ones as arguments") -/

/-- The `CRC_TABLE` the block was built with (log entry 1). -/
opaque crcTable : CrcTable
/-- The `CTS_MAX_POLLS` the block was built with (log entry 1). -/
opaque ctsMaxPolls : PollBound
/-- The `OP_READ_CMD_BUFF` the block was built with (log entry 1). -/
opaque opReadCmdBuff : Byte
/-- The `TIME_UNIT` the block was built with (log entry 1). -/
opaque timeUnit : Nat

/-- The parameters as given to the model (R31). -/
def params : Params :=
  { crcTable := crcTable, ctsMaxPolls := ctsMaxPolls,
    opReadCmdBuff := opReadCmdBuff, timeUnit := timeUnit }

/-! ### Free values: the chip and the transport, where State holds no known input (R140) -/

/-- Whether the bus call numbered `k` fails (D14, I6; log entry 3). -/
opaque freeFault : Nat → Bool
/-- The byte the chip drives at the draw numbered `k` (D27, I5; log entry 3). -/
opaque freeByte : Nat → Byte

end Config

end Sys2Proof
end

