-- ==== Sys2Proof/Syntax.lean ====
section
/-! DEFINITION. The seven operations of ACI-1 (spec R61), one constructor for each row of
spec/opcode_table.json, with the operands of R62; and the ways a frame is ill formed (R69). -/

namespace Sys2Proof

/-- A decoded request. Every operand is unsigned (R64). -/
inductive Instr where
  /-- `CRC [d0, …]` (R104): `LEN` is the length of the list. -/
  | crc (data : List Byte)
  /-- `PKT_BUILD op32, ch16` (R105). -/
  | pktBuild (opcode : Word) (channel : Half)
  /-- `PKT_CHECK [p0, …, p6]` (R107). -/
  | pktCheck (packet : Vector Byte 7)
  /-- `PLL_FREQ ch16` (R124). -/
  | pllFreq (channel : Half)
  /-- `PLL_PARAMS ch16` (R125). -/
  | pllParams (channel : Half)
  /-- `PLL_REGS ch16` (R127). -/
  | pllRegs (channel : Half)
  /-- `EXEC cmd, [a…], rlen` (R146): `NARGS` is the length of the list. -/
  | exec (cmd : Byte) (args : List Byte) (rlen : Byte)
  deriving DecidableEq, Repr

/-- The operation codes of R61's table, by name. -/
inductive Opcode where
  | crc | pktBuild | pktCheck | pllFreq | pllParams | pllRegs | exec
  deriving DecidableEq, Repr

/-- Why a frame is ill formed: the five cases of R69. -/
inductive IllFormed where
  /-- The frame is empty. -/
  | empty
  /-- `OPC` is not in R61's table. -/
  | unknownOpcode
  /-- For `CRC` and `EXEC`, the frame ends before the length byte. -/
  | noLengthByte
  /-- The frame is shorter than required. -/
  | tooShort
  /-- The frame is longer than required. -/
  | tooLong
  deriving DecidableEq, Repr

end Sys2Proof
end

