-- ==== Sys2Proof/WellFormed.lean ====
section
/-! DEFINITION. Which terms of `Instr` stand for a request: the byte lists must fit their one-byte
length fields (spec R62, `MAX_CRC_LEN` and `MAX_NARGS` of R6). Every other operand fits its field by
its type. -/

namespace Sys2Proof

/-- The byte lists of the instruction are at most 255 bytes long (R6, R62, R70). -/
def Instr.wellFormed : Instr → Bool
  | .crc data => decide (data.length ≤ Config.maxCrcLen)
  | .pktBuild _ _ => true
  | .pktCheck _ => true
  | .pllFreq _ => true
  | .pllParams _ => true
  | .pllRegs _ => true
  | .exec _ args _ => decide (args.length ≤ Config.maxNargs)

end Sys2Proof
end

