-- ==== Sys2Proof/Decode.lean ====
section
/-! DEFINITION. ACI-1 requests as bytes (spec R60 to R65, R69): the decoder, total on every byte
sequence and refusing by name; the encoder, written from the same layouts (R62, R70); and the words
of the opcode table as frames. -/

namespace Sys2Proof

open Machine (be16 be32 ofBe16 ofBe32)

/-- Byte 0 of each operation (R61). -/
def opcodeByte : Opcode → Byte
  | .crc => 0x01
  | .pktBuild => 0x02
  | .pktCheck => 0x03
  | .pllFreq => 0x10
  | .pllParams => 0x11
  | .pllRegs => 0x12
  | .exec => 0x20

/-- R61's table read from the byte. Every other value is illegal. -/
def opcodeOf (b : Byte) : Option Opcode :=
  if b = 0x01 then some .crc
  else if b = 0x02 then some .pktBuild
  else if b = 0x03 then some .pktCheck
  else if b = 0x10 then some .pllFreq
  else if b = 0x11 then some .pllParams
  else if b = 0x12 then some .pllRegs
  else if b = 0x20 then some .exec
  else none

/-- How many bytes the frame must have, read from byte 0 and, for `CRC` and `EXEC`, from byte 1 or
byte 2 (R63). -/
def requiredLength (f : Frame) : Except IllFormed Nat :=
  match f with
  | [] => .error .empty
  | opc :: rest =>
    match opcodeOf opc with
    | none => .error .unknownOpcode
    | some .crc =>
      match rest with
      | [] => .error .noLengthByte
      | len :: _ => .ok (2 + len.toNat)
    | some .pktBuild => .ok 7
    | some .pktCheck => .ok 8
    | some .pllFreq => .ok 3
    | some .pllParams => .ok 3
    | some .pllRegs => .ok 3
    | some .exec =>
      match rest with
      | _ :: nargs :: _ => .ok (4 + nargs.toNat)
      | _ => .error .noLengthByte

/-- The error of an operand field that does not have the length it must have (R69). -/
def wrongLength (got need : Nat) : IllFormed :=
  if got < need then .tooShort else .tooLong

/-- The `DATA` field of format `F-DATA` (R62). -/
def decodeData (ops : List Byte) : Except IllFormed Instr :=
  match ops with
  | [] => .error .noLengthByte
  | len :: data =>
    if data.length = len.toNat then .ok (.crc data)
    else .error (wrongLength data.length len.toNat)

/-- The operands of format `F-OPCH` (R62, R64). -/
def decodeOpch (ops : List Byte) : Except IllFormed Instr :=
  match ops with
  | [o3, o2, o1, o0, c1, c0] => .ok (.pktBuild (ofBe32 o3 o2 o1 o0) (ofBe16 c1 c0))
  | _ => .error (wrongLength ops.length 6)

/-- The packet of format `F-PKT` (R62). -/
def decodePkt (ops : List Byte) : Except IllFormed Instr :=
  match ops with
  | [p0, p1, p2, p3, p4, p5, p6] => .ok (.pktCheck #v[p0, p1, p2, p3, p4, p5, p6])
  | _ => .error (wrongLength ops.length 7)

/-- The channel of format `F-CH`, for the operation `mk` (R62, R64). -/
def decodeCh (mk : Half → Instr) (ops : List Byte) : Except IllFormed Instr :=
  match ops with
  | [c1, c0] => .ok (mk (ofBe16 c1 c0))
  | _ => .error (wrongLength ops.length 2)

/-- The operands of format `F-EXEC` (R62): `NARGS` argument bytes and then one byte `RLEN`. -/
def decodeExec (ops : List Byte) : Except IllFormed Instr :=
  match ops with
  | cmd :: nargs :: tail =>
    match tail.drop nargs.toNat with
    | [rlen] => .ok (.exec cmd (tail.take nargs.toNat) rlen)
    | [] => .error .tooShort
    | _ :: _ :: _ => .error .tooLong
  | _ => .error .noLengthByte

/-- The decoder (R63, R64, R65): total, and every refusal has one of R69's names. -/
def decode (f : Frame) : Except IllFormed Instr :=
  match f with
  | [] => .error .empty
  | opc :: ops =>
    match opcodeOf opc with
    | none => .error .unknownOpcode
    | some .crc => decodeData ops
    | some .pktBuild => decodeOpch ops
    | some .pktCheck => decodePkt ops
    | some .pllFreq => decodeCh .pllFreq ops
    | some .pllParams => decodeCh .pllParams ops
    | some .pllRegs => decodeCh .pllRegs ops
    | some .exec => decodeExec ops

/-- The operation code of an instruction (R61). -/
def opcodeOfInstr : Instr → Opcode
  | .crc _ => .crc
  | .pktBuild _ _ => .pktBuild
  | .pktCheck _ => .pktCheck
  | .pllFreq _ => .pllFreq
  | .pllParams _ => .pllParams
  | .pllRegs _ => .pllRegs
  | .exec _ _ _ => .exec

/-- The operand bytes of an instruction (R62, R70). -/
def encodeOperands : Instr → List Byte
  | .crc data => BitVec.ofNat 8 data.length :: data
  | .pktBuild opcode channel => be32 opcode ++ be16 channel
  | .pktCheck packet => packet.toList
  | .pllFreq channel => be16 channel
  | .pllParams channel => be16 channel
  | .pllRegs channel => be16 channel
  | .exec cmd args rlen => cmd :: BitVec.ofNat 8 args.length :: (args ++ [rlen])

/-- The encoder: the frame of a well-formed instruction (R62, R70). -/
def encode (i : Instr) : Frame := opcodeByte (opcodeOfInstr i) :: encodeOperands i

/-! ### The opcode table's words -/

/-- The longest request: `EXEC` with `NARGS = 255` (R60). -/
def longestFrame : Nat := 259

/-- The byte stream of a table word: byte `k` is bits `8k+7` to `8k` of `w`, every bit from `nbits` up
is zero, and zeros go on to the longest request. -/
def tableBytes (nbits w : Nat) : List Byte :=
  (List.range longestFrame).map fun k => BitVec.ofNat 8 ((w % 2 ^ nbits) >>> (8 * k))

/-- The request frame a table word stands for: as many bytes of that stream as R63 reads from its
first bytes; an opcode R61 does not list is a frame of one byte. -/
def tableFrame (nbits w : Nat) : Frame :=
  match requiredLength (tableBytes nbits w) with
  | .ok n => (tableBytes nbits w).take n
  | .error _ => (tableBytes nbits w).take 1

/-- The instruction the decoder reads from a table word. -/
def decodeTableWord (nbits w : Nat) : Option Instr :=
  match decode (tableFrame nbits w) with
  | .ok i => some i
  | .error _ => none

end Sys2Proof
end

