-- ==== Sys2Proof/Machine/Flags.lean ====
section
/-! DEFINITION. The block has no flags and no condition codes (spec R22): every outcome is the
status byte of one response frame. This file holds that byte's values and the two shapes of a
response frame (R66, R67, R170). -/

namespace Sys2Proof.Machine

/-- The block's errors (R170). -/
inductive BlockError where
  | outOfRange
  | internalInvariant
  | deviceNotResponding
  | busError
  | illegalRequest
  deriving DecidableEq, Repr

/-- The status code of an error (R67). -/
def errorCode : BlockError → Byte
  | .outOfRange => 0x01
  | .internalInvariant => 0x02
  | .deviceNotResponding => 0x03
  | .busError => 0x04
  | .illegalRequest => 0x05

/-- The status code `OK` (R67). -/
def statusOk : Byte := 0x00

/-- A successful response: `[STATUS] ++ RESULT` with `STATUS = OK` (R66). -/
def okFrame (result : List Byte) : Frame := statusOk :: result

/-- An error response is exactly one byte long (R66, R171). -/
def errorFrame (e : BlockError) : Frame := [errorCode e]

end Sys2Proof.Machine
end

