-- ==== Sys2Proof/Machine/State.lean ====
section
/-! DEFINITION. The state of the block (spec R26), the two ports as the world outside offers and
observes them (R40, R44, R140), and the ways a step can stop. Everything is plain data. -/

namespace Sys2Proof.Machine

/-- `s.phase` (R26). -/
inductive Phase where
  /-- No request in progress. -/
  | idle
  /-- The readiness wait before the command. -/
  | execPre
  /-- The command write. -/
  | execSend
  /-- The readiness wait and the response read. -/
  | execResp
  deriving DecidableEq, Repr

/-- `s.point`: a label of R145's pseudocode, the next bus primitive the sequencer calls (R26). -/
inductive Point where
  | a1 | a2 | a3 | a4 | a5
  | b1 | b2 | b3
  | c1 | c2 | c3 | c4 | c5 | c6 | c7
  deriving DecidableEq, Repr

/-- One event of the bus trace (R140, D35). -/
inductive BusEvent where
  /-- `Sel`. -/
  | sel
  /-- `Desel`. -/
  | desel
  /-- `Wr(bs)`. -/
  | wr (bs : List Byte)
  /-- `WrErr(bs)`. -/
  | wrErr (bs : List Byte)
  /-- `Rd(n, bytes)`. -/
  | rd (n : Nat) (bs : List Byte)
  /-- `RdErr(n)`. -/
  | rdErr (n : Nat)
  /-- `Slp(t)`. -/
  | slp (t : Nat)
  deriving DecidableEq, Repr

/-- The environment's oracle (R140): what the coming bus calls meet, as far as it is known. Where a
list has run out, the answer is a free value of Config, numbered by `draws` (log entry 3). -/
structure Oracle where
  /-- Whether each coming `BusWrite` or `BusRead` fails, the next call first (D14). -/
  faults : List Bool
  /-- The bytes the chip will drive, the next one first (D27). -/
  bytes : List Byte
  /-- How many free values have been taken. -/
  draws : Nat
  deriving DecidableEq, Repr

/-- The state. The fields `phase` to `out` are R26's record, field for field; `params` are the OPEN
parameters (R31's last row); the rest is the world at the two ports: what it will offer
(`requests`, `resetLine`, `oracle`) and what has been observed (`trace`, `delivered`, D35). -/
structure State where
  /-- The OPEN parameters of R6, fixed before reset is released (R201). -/
  params : Params
  /-- `s.phase`. -/
  phase : Phase
  /-- `s.point`; meaningful only when `phase` is not `idle`. -/
  point : Option Point
  /-- `s.polls`: readiness polls started in the current wait. -/
  polls : Nat
  /-- `s.cs`: the chip-select line as the block drives it; true is selected. -/
  cs : Bool
  /-- `s.cts`: the readiness byte of the latest poll. -/
  cts : Option Byte
  /-- `s.cmd`: the chip opcode of the EXEC in progress. -/
  cmd : Option Byte
  /-- `s.args`: its argument bytes. -/
  args : Option (List Byte)
  /-- `s.rlen`: its expected response length. -/
  rlen : Option Byte
  /-- `s.resp`: response bytes read so far. -/
  resp : Option (List Byte)
  /-- `s.out`: a response frame the host has not yet taken. -/
  out : Option Frame
  /-- Host port: the requests that wait outside the block, the next one first (R44). -/
  requests : List Frame
  /-- The reset signal at the coming steps, the next one first; released where the list has run
  out (R32, R200; log entry 5). -/
  resetLine : List Bool
  /-- Bus port: the chip and the transport (R140). -/
  oracle : Oracle
  /-- The bus trace so far, oldest event first (R140). -/
  trace : List BusEvent
  /-- The response frames the host has taken, oldest first (R44, D35). -/
  delivered : List Frame
  deriving DecidableEq, Repr

/-- The fields of R26 that can hold no value (R27). -/
inductive Latch where
  | point | cts | cmd | args | rlen | resp
  deriving DecidableEq, Repr

/-- How a step can stop. -/
inductive Fault where
  /-- Raised by the sequencer when it needs a field that holds no value: "A model that needs a value
  there has a bug and should fault, not read zero" (R27, I16). No state the block can be in raises
  it. Safe: the model stops where no rule goes on. -/
  | noValue (latch : Latch)
  deriving DecidableEq, Repr

/-- Why a step has no meaning. -/
inductive Refusal where
  /-- Raised by `exec` for an instruction that is not modelled; no arm of `exec` raises it. Safe. -/
  | notModelled (mnemonic : String)
  deriving DecidableEq, Repr

/-- The state after reset (R31): nothing in progress, chip deselected, every latch without a value,
the response port empty, the parameters as given; no request waits and nothing has been observed. -/
def State.reset : State :=
  { params := Config.params
    phase := .idle
    point := none
    polls := 0
    cs := false
    cts := none
    cmd := none
    args := none
    rlen := none
    resp := none
    out := none
    requests := []
    resetLine := []
    oracle := { faults := [], bytes := [], draws := 0 }
    trace := []
    delivered := [] }

end Sys2Proof.Machine
end

