-- ==== Sys2Proof/Machine/Ops.lean ====
section
/-! DEFINITION. The shared operations: the oracle's draws, the five bus primitives (spec R140), ending
a request (R145 `finish` and `clear`), raising an error (R172 `abort`), the poll bound (R143), and
reset (R31, R32, R200). -/

namespace Sys2Proof.Machine

/-! ### The oracle (R140) -/

/-- Whether the next `BusWrite` or `BusRead` fails. -/
def drawFault (o : Oracle) : Bool × Oracle :=
  match o.faults with
  | fails :: rest => (fails, { o with faults := rest })
  | [] => (Config.freeFault o.draws, { o with draws := o.draws + 1 })

/-- The next byte the chip drives. -/
def drawByte (o : Oracle) : Byte × Oracle :=
  match o.bytes with
  | b :: rest => (b, { o with bytes := rest })
  | [] => (Config.freeByte o.draws, { o with draws := o.draws + 1 })

/-- The next `n` bytes the chip drives, in order (R47). -/
def drawBytes : Nat → Oracle → List Byte × Oracle
  | 0, o => ([], o)
  | n + 1, o =>
    ((drawByte o).1 :: (drawBytes n (drawByte o).2).1, (drawBytes n (drawByte o).2).2)

/-! ### The bus primitives (R140) -/

/-- Appends one event to the bus trace. -/
def record (e : BusEvent) (s : State) : State :=
  { s with trace := s.trace ++ [e] }

/-- `BusSelect()`. -/
def busSelect (s : State) : State :=
  record .sel { s with cs := true }

/-- `BusDeselect()`; it cannot fail. -/
def busDeselect (s : State) : State :=
  record .desel { s with cs := false }

/-- `Sleep(t)`: an event, and no other effect (R211). -/
def busSleep (t : Nat) (s : State) : State :=
  record (.slp t) s

/-- What a call of a primitive that can fail comes to: its value and the state after, or the state
after the failed call. -/
inductive BusResult (α : Type) where
  | done (value : α) (s : State)
  | failed (s : State)

/-- `BusWrite(bs)`: moves the bytes, or fails by the oracle's choice. -/
def busWrite (bs : List Byte) (s : State) : BusResult Unit :=
  let draw := drawFault s.oracle
  if draw.1 then .failed (record (.wrErr bs) { s with oracle := draw.2 })
  else .done () (record (.wr bs) { s with oracle := draw.2 })

/-- `BusRead(n)`: returns the `n` bytes the chip chooses, or fails by the oracle's choice and returns
no bytes. -/
def busRead (n : Nat) (s : State) : BusResult (List Byte) :=
  let draw := drawFault s.oracle
  if draw.1 then .failed (record (.rdErr n) { s with oracle := draw.2 })
  else
    let read := drawBytes n draw.2
    .done read.1 (record (.rd n read.1) { s with oracle := read.2 })

/-! ### Ending a request (R145) -/

/-- `s.out <- frame`. -/
def respond (frame : Frame) (s : State) : State :=
  { s with out := some frame }

/-- `clear()`: every latch without a value, and no polls (R145). -/
def clearLatches (s : State) : State :=
  { s with
    point := none, cts := none, cmd := none, args := none, rlen := none, resp := none
    polls := 0 }

/-- `finish(frame)`: deliver the frame, clear, and go back to `IDLE` (R145). -/
def finish (frame : Frame) (s : State) : State :=
  { clearLatches (respond frame s) with phase := .idle }

/-- `BusDeselect()` if chip select is asserted. -/
def releaseSelect (s : State) : State :=
  if s.cs then busDeselect s else s

/-- `raise E()`, the block's "trap entry": deselect if selected, clear, deliver the one-byte error
response, go back to `IDLE` (R172). There is no return from it (R174). -/
def abort (e : BlockError) (s : State) : State :=
  { respond (errorFrame e) (clearLatches (releaseSelect s)) with phase := .idle }

/-! ### The poll bound (R143, R145) -/

/-- `bound_reached`: the bound is finite and `s.polls` has come to it. -/
def boundReached (s : State) : Bool :=
  match s.params.ctsMaxPolls with
  | .bounded most => decide ((most : Nat) ≤ s.polls)
  | .unbounded => false

/-! ### Reset (R31, R32, R200) -/

/-- Reset: a request in progress is abandoned with no response, chip select is released, and every
field of R26's record takes its reset value. What waits outside the block waits on, and what has
been observed stays observed. -/
def resetBlock (s : State) : State :=
  { clearLatches (releaseSelect s) with phase := .idle, out := none }

end Sys2Proof.Machine
end

