-- ==== Sys2Proof/Machine/Crc.lean ====
section
/-! DEFINITION. The CRC unit (spec 40_crc.md): `crc8` over any table, the three candidate tables the
source's wording admits, and the meanings of `CRC`, `PKT_BUILD` and `PKT_CHECK`. -/

namespace Sys2Proof.Machine

/-- `CRC_TABLE[b]` (R102). -/
def crcLookup (table : CrcTable) (b : Byte) : Byte :=
  table[b.toNat]'b.isLt

/-- `acc <- CRC_TABLE[acc ^ b]` (R101). -/
def crcStep (table : CrcTable) (acc b : Byte) : Byte :=
  crcLookup table (acc ^^^ b)

/-- `crc8` (R100, R101). -/
def crc8 (table : CrcTable) (bs : List Byte) : Byte :=
  bs.foldl (crcStep table) Config.crcInit

/-- The bytes of a control packet before its CRC (R72): the opcode and the channel, big-endian. -/
def packetHeader (opcode : Word) (channel : Half) : List Byte :=
  be32 opcode ++ be16 channel

/-- A control packet: its header and the header's CRC (R72, R105). -/
def buildPacket (table : CrcTable) (opcode : Word) (channel : Half) : List Byte :=
  packetHeader opcode channel ++ [crc8 table (packetHeader opcode channel)]

/-- Whether byte 6 of a packet is the CRC of its bytes 0 to 5 (R107). -/
def packetValid (table : CrcTable) (packet : Vector Byte 7) : Bool :=
  crc8 table (packet.toList.take 6) == packet[6]

/-! ### The candidate tables (R103) -/

/-- The table whose entry `i` is `entry i`. -/
def crcTableOf (entry : Byte → Byte) : CrcTable :=
  ⟨((List.range 256).map fun i => entry (BitVec.ofNat 8 i)).toArray, by simp⟩

/-- One bit of an MSB-first generator: shift left, and add `poly` if the bit shifted out was 1. -/
def shiftMsbFirst (poly c : Byte) : Byte :=
  if c.getLsbD 7 then (c <<< 1) ^^^ poly else c <<< 1

/-- One bit of an LSB-first generator: shift right, and add `poly` if the bit shifted out was 1. -/
def shiftLsbFirst (poly c : Byte) : Byte :=
  if c.getLsbD 0 then (c >>> 1) ^^^ poly else c >>> 1

/-- Eight bits of a generator. -/
def eightTimes (shift : Byte → Byte) (c : Byte) : Byte :=
  shift (shift (shift (shift (shift (shift (shift (shift c)))))))

/-- (a) `CRC8-M8D`: MSB-first, generator constant 0x8D. -/
def tableM8D : CrcTable := crcTableOf (eightTimes (shiftMsbFirst 0x8D))

/-- (b) `CRC8-R8D`: LSB-first, right-shift constant 0xB1, the bit reversal of 0x8D. -/
def tableR8D : CrcTable := crcTableOf (eightTimes (shiftLsbFirst 0xB1))

/-- (c) `CRC8-L8D`: LSB-first, right-shift constant 0x8D. -/
def tableL8D : CrcTable := crcTableOf (eightTimes (shiftLsbFirst 0x8D))

/-! ### The operations -/

/-- `CRC` (R104). -/
def execCrc (data : List Byte) (s : State) : Host.Outcome State Fault Refusal :=
  .next (respond (okFrame [crc8 s.params.crcTable data]) s)

/-- `PKT_BUILD` (R105): no range check on the channel. -/
def execPktBuild (opcode : Word) (channel : Half) (s : State) :
    Host.Outcome State Fault Refusal :=
  .next (respond (okFrame (buildPacket s.params.crcTable opcode channel)) s)

/-- `PKT_CHECK` (R107): a mismatch is a result, not an error. -/
def execPktCheck (packet : Vector Byte 7) (s : State) : Host.Outcome State Fault Refusal :=
  .next (respond (okFrame [if packetValid s.params.crcTable packet then 0x01 else 0x00]) s)

end Sys2Proof.Machine
end

