-- ==== Sys2Proof/Machine/Handshake.lean ====
section
/-! DEFINITION. The handshake sequencer (spec 42_handshake.md): the acceptance of an `EXEC`, and one step for
each label of R145's pseudocode. A step calls the label's bus primitive and runs the pseudocode to
the next label; an error's `abort` belongs to the step that raises it (log entry 4). -/

namespace Sys2Proof.Machine

/-- `EXEC` as it is accepted (R46, R145, R146): the operands are latched and the readiness wait begins;
no primitive is called yet. -/
def execExec (cmd : Byte) (args : List Byte) (rlen : Byte) (s : State) :
    Host.Outcome State Fault Refusal :=
  .next { s with
    cmd := some cmd, args := some args, rlen := some rlen
    phase := .execPre, polls := 0, point := some .a1 }

/-- The sequencer's next label. -/
def goTo (p : Point) (s : State) : State := { s with point := some p }

/-! ### What the two readiness waits share (R142) -/

/-- A1, C1: `s.polls <- s.polls + 1; BusSelect()`. -/
def pollSelect (next : Point) (s : State) : State :=
  goTo next (busSelect { s with polls := s.polls + 1 })

/-- A2, C2: `BusWrite([OP_READ_CMD_BUFF])`. -/
def pollAsk (next : Point) (s : State) : State :=
  match busWrite [s.params.opReadCmdBuff] s with
  | .failed s' => abort .busError s'
  | .done _ s' => goTo next s'

/-- A5, C7: `Sleep(POLL_INTERVAL)`, and the next poll. -/
def pollSleep (next : Point) (s : State) : State :=
  goTo next (busSleep Config.pollInterval s)

/-- After a poll that read not ready: the bound ends the wait, or the wait sleeps (R143). -/
def pollAgain (sleep : Point) (s : State) : State :=
  if boundReached s then abort .deviceNotResponding s else goTo sleep s

/-! ### Phase A: the readiness wait before the command -/

/-- A1. -/
def seqA1 (s : State) : Host.Outcome State Fault Refusal := .next (pollSelect .a2 s)

/-- A2. -/
def seqA2 (s : State) : Host.Outcome State Fault Refusal := .next (pollAsk .a3 s)

/-- A3: `s.cts <- BusRead(1)[0]`. -/
def seqA3 (s : State) : Host.Outcome State Fault Refusal :=
  match busRead 1 s with
  | .failed s' => .next (abort .busError s')
  | .done bs s' => .next (goTo .a4 { s' with cts := bs.head? })

/-- A4: `BusDeselect()`, and the loop ends, the wait fails or it goes on. -/
def seqA4 (s : State) : Host.Outcome State Fault Refusal :=
  match s.cts with
  | none => .fault (.noValue .cts)
  | some cts =>
    if cts = Config.ctsReady then
      .next (goTo .b1 { busDeselect s with phase := .execSend })
    else .next (pollAgain .a5 (busDeselect s))

/-- A5. -/
def seqA5 (s : State) : Host.Outcome State Fault Refusal := .next (pollSleep .a1 s)

/-! ### Phase B: the command write -/

/-- B1: `BusSelect()`. -/
def seqB1 (s : State) : Host.Outcome State Fault Refusal := .next (goTo .b2 (busSelect s))

/-- B2: `BusWrite([s.cmd] ++ s.args)`, one write. -/
def seqB2 (s : State) : Host.Outcome State Fault Refusal :=
  match s.cmd, s.args with
  | none, _ => .fault (.noValue .cmd)
  | some _, none => .fault (.noValue .args)
  | some cmd, some args =>
    match busWrite (cmd :: args) s with
    | .failed s' => .next (abort .busError s')
    | .done _ s' => .next (goTo .b3 s')

/-- B3: `BusDeselect()`, and the request ends or the response wait begins. -/
def seqB3 (s : State) : Host.Outcome State Fault Refusal :=
  match s.rlen with
  | none => .fault (.noValue .rlen)
  | some rlen =>
    if rlen = 0 then .next (finish (okFrame []) (busDeselect s))
    else .next (goTo .c1 { busDeselect s with phase := .execResp, polls := 0 })

/-! ### Phase C: the readiness wait and the response read -/

/-- C1. -/
def seqC1 (s : State) : Host.Outcome State Fault Refusal := .next (pollSelect .c2 s)

/-- C2. -/
def seqC2 (s : State) : Host.Outcome State Fault Refusal := .next (pollAsk .c3 s)

/-- C3: `s.cts <- BusRead(1)[0]`; ready, the response is read in the same span (R144). -/
def seqC3 (s : State) : Host.Outcome State Fault Refusal :=
  match busRead 1 s with
  | .failed s' => .next (abort .busError s')
  | .done bs s' =>
    if bs.head? = some Config.ctsReady then .next (goTo .c4 { s' with cts := bs.head? })
    else .next (goTo .c6 { s' with cts := bs.head? })

/-- C4: `s.resp <- BusRead(s.rlen)`. -/
def seqC4 (s : State) : Host.Outcome State Fault Refusal :=
  match s.rlen with
  | none => .fault (.noValue .rlen)
  | some rlen =>
    match busRead rlen.toNat s with
    | .failed s' => .next (abort .busError s')
    | .done bs s' => .next (goTo .c5 { s' with resp := some bs })

/-- C5: `BusDeselect(); finish([0x00] ++ s.resp)`. -/
def seqC5 (s : State) : Host.Outcome State Fault Refusal :=
  match s.resp with
  | none => .fault (.noValue .resp)
  | some resp => .next (finish (okFrame resp) (busDeselect s))

/-- C6: `BusDeselect()` after a poll that read not ready. -/
def seqC6 (s : State) : Host.Outcome State Fault Refusal :=
  .next (pollAgain .c7 (busDeselect s))

/-- C7. -/
def seqC7 (s : State) : Host.Outcome State Fault Refusal := .next (pollSleep .c1 s)

/-! ### The sequencer -/

/-- One step of the sequencer from a label (R145). -/
def runPoint (p : Point) (s : State) : Host.Outcome State Fault Refusal :=
  match p with
  | .a1 => seqA1 s
  | .a2 => seqA2 s
  | .a3 => seqA3 s
  | .a4 => seqA4 s
  | .a5 => seqA5 s
  | .b1 => seqB1 s
  | .b2 => seqB2 s
  | .b3 => seqB3 s
  | .c1 => seqC1 s
  | .c2 => seqC2 s
  | .c3 => seqC3 s
  | .c4 => seqC4 s
  | .c5 => seqC5 s
  | .c6 => seqC6 s
  | .c7 => seqC7 s

/-- One step of a request in progress. -/
def sequencerStep (s : State) : Host.Outcome State Fault Refusal :=
  match s.point with
  | none => .fault (.noValue .point)
  | some p => runPoint p s

end Sys2Proof.Machine
end

