-- ==== Sys2Proof/Machine/Float64.lean ====
section
/-! DEFINITION. The binary64 arithmetic of the PLL datapath (spec R9, R121, D7): a finite binary64 value is
the rational number it stands for, and each operation is the exact rational operation rounded once,
to nearest with ties to even. Infinities, NaNs and the sign of zero are left out: R176 says that no
channel leads to them (log entry 7). -/

namespace Sys2Proof.Machine

/-- A finite binary64 value. -/
abbrev F64 := Rat

/-- `2^e`, exactly. -/
def pow2 (e : Int) : Rat :=
  match e with
  | .ofNat n => ((2 ^ n : Nat) : Rat)
  | .negSucc n => mkRat 1 (2 ^ (n + 1))

/-- The exponent `k` with `2^k ≤ |v| < 2^(k+1)`, for `v ≠ 0`. -/
def binade (v : Rat) : Int :=
  let k : Int := (v.num.natAbs.log2 : Int) - (v.den.log2 : Int)
  if pow2 k ≤ |v| then k else k - 1

/-- The exponent of the unit in the last place at `v`: 53 significant bits, and no less than the
smallest subnormal's `-1074`. -/
def ulpExp (v : Rat) : Int :=
  if binade v - 52 < -1074 then -1074 else binade v - 52

/-- The integer nearest to `q`, the even one of two that are equally near. -/
def tiesToEven (q : Rat) : Int :=
  let below := q.floor
  if q - below < 1 / 2 then below
  else if 1 / 2 < q - below then below + 1
  else if below % 2 = 0 then below else below + 1

/-- The binary64 value nearest to `v`, ties to even (D7). -/
def roundEven (v : Rat) : F64 :=
  (tiesToEven (v / pow2 (ulpExp v)) : Rat) * pow2 (ulpExp v)

/-- `f64(n)` (R9). -/
def f64OfNat (n : Nat) : F64 := roundEven n

/-- `x ⊕ y` (R9). -/
def f64Add (x y : F64) : F64 := roundEven (x + y)

/-- `x ⊖ y` (R9). -/
def f64Sub (x y : F64) : F64 := roundEven (x - y)

/-- `x ⊗ y` (R9). -/
def f64Mul (x y : F64) : F64 := roundEven (x * y)

/-- `x ⊘ y`, for `y ≠ 0` (R9). -/
def f64Div (x y : F64) : F64 := roundEven (x / y)

/-- `trunc(x)`: rounds toward zero (R8). -/
def f64Trunc (x : F64) : Int := if 0 ≤ x then x.floor else x.ceil

/-- The IEEE 754 interchange bit pattern of a binary64 value: sign, 11 bits of biased exponent, 52
bits of fraction (R124, D21, I26). The leading 1 of a normal significand falls away with the bits
above the field. -/
def bits64 (x : F64) : BitVec 64 :=
  let significand := (|x| / pow2 (ulpExp x)).floor.toNat
  let biased := if significand < 2 ^ 52 then 0 else (ulpExp x + 1075).toNat
  BitVec.ofBool (decide (x < 0)) ++ BitVec.ofNat 11 biased ++ BitVec.ofNat 52 significand

end Sys2Proof.Machine
end

