-- ==== Sys2Proof/Machine/Pll.lean ====
section
/-! DEFINITION. The PLL synthesizer unit (spec 41_pll.md): the datapath in binary64, in the order the spec
gives it, and the meanings of `PLL_FREQ`, `PLL_PARAMS` and `PLL_REGS`. -/

namespace Sys2Proof.Machine

/-! ### The datapath -/

/-- The channel code `fc`, an exact integer (R120, D8). -/
def channelCode (channel : Half) : Nat :=
  if Config.chSplit < channel.toNat then Config.fcHiMul * channel.toNat + Config.fcHiAdd
  else channel.toNat + Config.fcLoAdd

/-- `mhz = 10 ⊗ (43 ⊕ (fc ⊘ 64000))` (R121). -/
def frequencyMhz (fc : Nat) : F64 :=
  f64Mul (f64OfNat Config.fMul)
    (f64Add (f64OfNat Config.fBase) (f64Div (f64OfNat fc) (f64OfNat Config.fDiv)))

/-- `hz = 1e6 ⊗ mhz` (R121). -/
def frequencyHz (fc : Nat) : F64 :=
  f64Mul (f64OfNat Config.hzPerMhz) (frequencyMhz fc)

/-- `d = (2 ⊗ XTAL_HZ) ⊘ PLL_OUTDIV` (R121). -/
def dividerHz : F64 :=
  f64Div (f64Mul (f64OfNat 2) (f64OfNat Config.xtalHz)) (f64OfNat Config.pllOutdiv)

/-- `N = hz ⊘ d` (R121). -/
def dividerRatio (fc : Nat) : F64 :=
  f64Div (frequencyHz fc) dividerHz

/-- The integral part of `N`, as a binary64 value: `ip = trunc(N)` (R122). -/
def integralPart (n : F64) : F64 := (f64Trunc n : Rat)

/-- `ip1 = ip ⊖ 1` (R122). -/
def normalInteger (n : F64) : F64 := f64Sub (integralPart n) (f64OfNat 1)

/-- `fp1 = (N ⊖ ip) ⊕ 1`, the renormalised fraction (R122). -/
def normalFraction (n : F64) : F64 := f64Add (f64Sub n (integralPart n)) (f64OfNat 1)

/-- R122's check, on the closed interval (90_conflicts.md C2). -/
def fractionInRange (n : F64) : Bool :=
  decide (f64OfNat 1 ≤ normalFraction n) && decide (normalFraction n ≤ f64OfNat 2)

/-- `INTE = u8(trunc(ip1))` (R122). -/
def pllInte (n : F64) : Byte := u8 (f64Trunc (normalInteger n))

/-- `FRAC = u32(trunc(fp1 ⊗ 2^19))` (R122). -/
def pllFrac (n : F64) : Word :=
  u32 (f64Trunc (f64Mul (normalFraction n) (f64OfNat Config.fracScale)))

/-- The channels `PLL_PARAMS` and `PLL_REGS` accept (R125). -/
def channelInRange (channel : Half) : Bool :=
  decide (Config.chMin ≤ channel.toNat) && decide (channel.toNat ≤ Config.chMax)

/-- `INTE` and `FRAC` of a channel, or the error that ends the operation: the range check comes before
any arithmetic (R125, R173), the check of the fraction before scaling (R122). -/
def pllParameters (channel : Half) : Except BlockError (Byte × Word) :=
  if channelInRange channel then
    if fractionInRange (dividerRatio (channelCode channel)) then
      .ok (pllInte (dividerRatio (channelCode channel)),
        pllFrac (dividerRatio (channelCode channel)))
    else .error .internalInvariant
  else .error .outOfRange

/-! ### The operations -/

/-- `PLL_FREQ` (R124): every 16-bit channel is computed. -/
def execPllFreq (channel : Half) (s : State) : Host.Outcome State Fault Refusal :=
  .next (respond (okFrame (be64 (bits64 (frequencyMhz (channelCode channel))))) s)

/-- `PLL_PARAMS` (R125). -/
def execPllParams (channel : Half) (s : State) : Host.Outcome State Fault Refusal :=
  match pllParameters channel with
  | .ok (inte, frac) => .next (respond (okFrame (inte :: be32 frac)) s)
  | .error e => .next (abort e s)

/-- `PLL_REGS` (R127). -/
def execPllRegs (channel : Half) (s : State) : Host.Outcome State Fault Refusal :=
  match pllParameters channel with
  | .ok (inte, frac) => .next (respond (okFrame (inte :: be24 frac)) s)
  | .error e => .next (abort e s)

end Sys2Proof.Machine
end

