-- ==== Sys2Proof/Machine/Dispatch.lean ====
section
/-! DEFINITION. One arm for each constructor of Instr: the meaning of each operation (spec R61). -/

namespace Sys2Proof.Machine

def exec (i : Instr) (s : State) : Host.Outcome State Fault Refusal :=
  match i with
  | .crc data => Sys2Proof.Machine.execCrc data s
  | .pktBuild opcode channel => Sys2Proof.Machine.execPktBuild opcode channel s
  | .pktCheck packet => Sys2Proof.Machine.execPktCheck packet s
  | .pllFreq channel => Sys2Proof.Machine.execPllFreq channel s
  | .pllParams channel => Sys2Proof.Machine.execPllParams channel s
  | .pllRegs channel => Sys2Proof.Machine.execPllRegs channel s
  | .exec cmd args rlen => Sys2Proof.Machine.execExec cmd args rlen s

end Sys2Proof.Machine
end

