-- ==== Sys2Proof/Machine/HostPort.lean ====
section
/-! DEFINITION. The host port and the whole step: taking a response, accepting the next request (spec R44,
R46, R69), waiting in `IDLE`, running the sequencer, and the reset signal (R32, R200). -/

namespace Sys2Proof.Machine

/-- The host takes the response in `s.out`, whole (R44, R46; log entry 6). -/
def takeResponse (frame : Frame) (s : State) : State :=
  { s with out := none, delivered := s.delivered ++ [frame] }

/-- A request is accepted whole, decoded and run; an ill-formed one is answered `[0x05]` and has no
other effect (R46, R65, R69). -/
def acceptRequest (frame : Frame) (s : State) : Host.Outcome State Fault Refusal :=
  match decode frame with
  | .ok i => exec i s
  | .error _ => .next (respond (errorFrame .illegalRequest) s)

/-- A step in `IDLE`: a response in `s.out` is taken before the next request is accepted; with
nothing to take and nothing to accept, the block waits (R44, R200, R204). -/
def idleStep (s : State) : Host.Outcome State Fault Refusal :=
  match s.out with
  | some frame => .next (takeResponse frame s)
  | none =>
    match s.requests with
    | [] => .next s
    | frame :: rest => acceptRequest frame { s with requests := rest }

/-- A step while reset is released. -/
def releasedStep (s : State) : Host.Outcome State Fault Refusal :=
  if s.phase = .idle then idleStep s else sequencerStep s

/-- A step: reset where the reset signal is asserted, and otherwise a step of the block (R32, R200). -/
def clockedStep (s : State) : Host.Outcome State Fault Refusal :=
  match s.resetLine with
  | [] => releasedStep s
  | true :: rest => .next (resetBlock { s with resetLine := rest })
  | false :: rest => releasedStep { s with resetLine := rest }

/-- The reset signal is released at the coming step. -/
def releaseReset (line : List Bool) : List Bool :=
  match line with
  | [] => []
  | _ :: rest => false :: rest

/-- The block ready to accept: nothing in progress and the response port empty (R44). -/
def readyToAccept (s : State) : State :=
  if s.phase = .idle then { s with out := none } else resetBlock s

/-- `frame` is the next request, and the coming step accepts it. -/
def presentRequest (frame : Frame) (s : State) : State :=
  { readyToAccept s with
    requests := frame :: s.requests, resetLine := releaseReset s.resetLine }

end Sys2Proof.Machine
end

