-- ==== Sys2Proof/Machine/Step.lean ====
section
/-! DEFINITION. One step of the machine, and the table word presented as the next request. -/

namespace Sys2Proof.Machine

/-- One step (spec R44, R145, R200). -/
def step (s : State) : Host.Outcome State Fault Refusal := clockedStep s

/-- `s` with the table word presented as its next request, so that the coming step accepts and runs
it (log entry 8). -/
def State.withFetchWord (s : State) (nbits w : Nat) : State :=
  presentRequest (tableFrame nbits w) s

end Sys2Proof.Machine
end

