-- ==== Sys2Proof/Machine/HostUse.lean ====
section
/-! DEFINITION. The wire structures the spec records for the host's use (R71, R75 to R81): the block carries
them as opaque bytes (R141) and no step reads this file. -/

namespace Sys2Proof.Machine

/-- The chip opcodes a host needs, under R81's host constants; the source gives their names only. -/
structure HostOpcodes where
  partInfo : Byte
  setProperty : Byte
  getProperty : Byte
  fifoInfo : Byte
  getIntStatus : Byte
  startTx : Byte
  writeTxFifo : Byte
  readCmdBuff : Byte
  frrARead : Byte
  deriving DecidableEq, Repr

/-- The Si446x values of R81's third column (general knowledge, not from the source: log entry 12). -/
def si446xOpcodes : HostOpcodes :=
  { partInfo := 0x01, setProperty := 0x11, getProperty := 0x12, fifoInfo := 0x15
    getIntStatus := 0x20, startTx := 0x31, writeTxFifo := 0x66, readCmdBuff := 0x44
    frrARead := 0x50 }

/-! ### Requests (R71, R79, R80) -/

/-- `SEND cmd, [a…]`: a command with no response (R71). -/
def sendRequest (cmd : Byte) (args : List Byte) : Instr := .exec cmd args 0

/-- The argument header of a property get or set (R75): group id, property count, starting index. -/
def propertyHeader (group count start : Byte) : List Byte := [group, count, start]

/-- `SETPROP grp, idx, [d…]` (R71, R75). -/
def setPropRequest (ops : HostOpcodes) (group start : Byte) (data : List Byte) : Instr :=
  sendRequest ops.setProperty
    (propertyHeader group (BitVec.ofNat 8 data.length) start ++ data)

/-- `GETPROP grp, idx, m` (R71). -/
def getPropRequest (ops : HostOpcodes) (group start count : Byte) : Instr :=
  .exec ops.getProperty (propertyHeader group count start) count

/-- The transmit-buffer write of a control packet: payload length 7, then the packet (R79). -/
def writeTxFifoRequest (ops : HostOpcodes) (packet : Vector Byte 7) : Instr :=
  sendRequest ops.writeTxFifo (0x07 :: packet.toList)

/-- What the replay of a configuration table comes to (R80). -/
structure Replay where
  /-- The requests issued, in order. -/
  issued : List Instr
  /-- Whether the replay ended in `MalformedConfig`. -/
  malformed : Bool
  deriving DecidableEq, Repr

/-- The replay of at most `fuel` entries (R80, 90_conflicts.md C11): a zero length or the table's end
at an entry boundary ends it; a length above 16, or an entry cut short, is `MalformedConfig`. -/
def replayEntries : Nat → List Byte → Replay
  | 0, _ => ⟨[], false⟩
  | _ + 1, [] => ⟨[], false⟩
  | fuel + 1, len :: tail =>
    if len = 0 then ⟨[], false⟩
    else if 16 < len.toNat ∨ tail.length < len.toNat then ⟨[], true⟩
    else
      match tail.take len.toNat with
      | [] => ⟨[], true⟩
      | cmd :: args =>
        let rest := replayEntries fuel (tail.drop len.toNat)
        ⟨sendRequest cmd args :: rest.issued, rest.malformed⟩

/-- The replay of a whole configuration table: each entry takes at least one byte. -/
def replayTable (table : List Byte) : Replay := replayEntries table.length table

/-! ### Responses (R76, R77, R78) -/

/-- The identity response (R76). -/
structure Identity where
  chipRevision : Byte
  partNumber : Half
  build : Byte
  deviceId : Half
  customerId : Byte
  romId : Byte
  deriving DecidableEq, Repr

/-- The eight bytes of an identity response (R76). -/
def readIdentity : List Byte → Option Identity
  | [rev, p1, p0, build, d1, d0, customer, rom] =>
    some ⟨rev, ofBe16 p1 p0, build, ofBe16 d1 d0, customer, rom⟩
  | _ => none

/-- The pending and the status byte of one interrupt domain (R77). -/
structure DomainStatus where
  pending : Byte
  status : Byte
  deriving DecidableEq, Repr

/-- The interrupt status response, in the wire order of 90_conflicts.md C6 (R77). -/
structure InterruptStatus where
  global : DomainStatus
  modem : DomainStatus
  packetHandler : DomainStatus
  chip : DomainStatus
  deriving DecidableEq, Repr

/-- The eight bytes of an interrupt status response (R77). -/
def readInterruptStatus : List Byte → Option InterruptStatus
  | [gp, gs, mp, ms, pp, ps, cp, cs] => some ⟨⟨gp, gs⟩, ⟨mp, ms⟩, ⟨pp, ps⟩, ⟨cp, cs⟩⟩
  | _ => none

/-- The one interrupt bit the source names, in a byte of the chip domain: bit 3 is command-error
(R77). -/
def commandErrorBit (chipByte : Byte) : Bool := chipByte.getLsbD 3

/-- The fifo info response (R78). -/
structure FifoInfo where
  rxCount : Byte
  txFree : Byte
  deriving DecidableEq, Repr

/-- The two bytes of a fifo info response (R78). -/
def readFifoInfo : List Byte → Option FifoInfo
  | [rx, tx] => some ⟨rx, tx⟩
  | _ => none

/-! ### The inverse relation (R129) -/

/-- `(INTE + FRAC / 2^19) × (2 × XTAL_HZ / PLL_OUTDIV)`, in Hz: the relation a host may use; the block
has no such operation (D32). -/
def relationHz (inte : Byte) (frac : Word) : Rat :=
  ((inte.toNat : Rat) + (frac.toNat : Rat) / (Config.fracScale : Nat)) *
    ((2 * Config.xtalHz : Nat) / (Config.pllOutdiv : Nat))

end Sys2Proof.Machine
end

