-- ==== Sys2Proof/Machine/Assembler.lean ====
section
/-! DEFINITION. The assembly lines of ACI-1 (spec R70) and its pseudo-operations (R71): reading one line of
text, and assembling it to one request. Host-side; no step reads this file. -/

namespace Sys2Proof.Machine

/-- A line's operand: a number or a byte list (R70). -/
inductive AsmOperand where
  | num (n : Nat)
  | bytes (ns : List Nat)
  deriving DecidableEq, Repr

/-- A line: the mnemonic's characters and the operands (R70). -/
structure AsmLine where
  mnemonic : List Char
  operands : List AsmOperand
  deriving DecidableEq, Repr

/-! ### Fitting operands to their fields: an operand that does not fit is refused (R70) -/

/-- A number as an 8-bit field. -/
def asmByte (n : Nat) : Option Byte := if n < 2 ^ 8 then some (BitVec.ofNat 8 n) else none

/-- A number as a 16-bit field. -/
def asmHalf (n : Nat) : Option Half := if n < 2 ^ 16 then some (BitVec.ofNat 16 n) else none

/-- A number as a 32-bit field. -/
def asmWord (n : Nat) : Option Word := if n < 2 ^ 32 then some (BitVec.ofNat 32 n) else none

/-- A byte list; one longer than 255 bytes is refused. -/
def asmBytes (ns : List Nat) : Option (List Byte) :=
  if ns.length ≤ 255 then ns.mapM asmByte else none

/-- Seven bytes. -/
def asmPacket (ns : List Nat) : Option (Vector Byte 7) :=
  match ns.mapM asmByte with
  | some [p0, p1, p2, p3, p4, p5, p6] => some #v[p0, p1, p2, p3, p4, p5, p6]
  | _ => none

/-! ### The operations (R70) -/

/-- `MNEMONIC ch16`. -/
def asmChannel (mk : Half → Instr) : List AsmOperand → Option Instr
  | [.num ch] => (asmHalf ch).map mk
  | _ => none

/-- `CRC [d0, …]`. -/
def asmCrc : List AsmOperand → Option Instr
  | [.bytes ds] => (asmBytes ds).map .crc
  | _ => none

/-- `PKT_BUILD op32, ch16`. -/
def asmPktBuild : List AsmOperand → Option Instr
  | [.num op, .num ch] => do return .pktBuild (← asmWord op) (← asmHalf ch)
  | _ => none

/-- `PKT_CHECK [p0, …, p6]`. -/
def asmPktCheck : List AsmOperand → Option Instr
  | [.bytes ps] => (asmPacket ps).map .pktCheck
  | _ => none

/-- `EXEC cmd, [a0, …], rlen`. -/
def asmExec : List AsmOperand → Option Instr
  | [.num cmd, .bytes as, .num rlen] =>
    do return .exec (← asmByte cmd) (← asmBytes as) (← asmByte rlen)
  | _ => none

/-! ### The pseudo-operations, each one request (R71) -/

/-- `CRC6 d0, …, d5`. -/
def asmCrc6 : List AsmOperand → Option Instr
  | [.num d0, .num d1, .num d2, .num d3, .num d4, .num d5] =>
    asmCrc [.bytes [d0, d1, d2, d3, d4, d5]]
  | _ => none

/-- `SEND cmd, [a…]`. -/
def asmSend : List AsmOperand → Option Instr
  | [.num cmd, .bytes as] => do return sendRequest (← asmByte cmd) (← asmBytes as)
  | _ => none

/-- `SETPROP grp, idx, [d…]`; header and data together must fit one byte list. -/
def asmSetProp (ops : HostOpcodes) : List AsmOperand → Option Instr
  | [.num grp, .num idx, .bytes ds] => do
    let header ← asmBytes [grp, ds.length, idx]
    let data ← asmBytes ds
    if header.length + data.length ≤ 255 then
      return setPropRequest ops (← asmByte grp) (← asmByte idx) data
    else none
  | _ => none

/-- `GETPROP grp, idx, m`. -/
def asmGetProp (ops : HostOpcodes) : List AsmOperand → Option Instr
  | [.num grp, .num idx, .num m] =>
    do return getPropRequest ops (← asmByte grp) (← asmByte idx) (← asmByte m)
  | _ => none

/-- A line's mnemonic and the operands it takes. -/
def asmTable (ops : HostOpcodes) : List (List Char × (List AsmOperand → Option Instr)) :=
  [ (['C', 'R', 'C'], asmCrc),
    (['P', 'K', 'T', '_', 'B', 'U', 'I', 'L', 'D'], asmPktBuild),
    (['P', 'K', 'T', '_', 'C', 'H', 'E', 'C', 'K'], asmPktCheck),
    (['P', 'L', 'L', '_', 'F', 'R', 'E', 'Q'], asmChannel .pllFreq),
    (['P', 'L', 'L', '_', 'P', 'A', 'R', 'A', 'M', 'S'], asmChannel .pllParams),
    (['P', 'L', 'L', '_', 'R', 'E', 'G', 'S'], asmChannel .pllRegs),
    (['E', 'X', 'E', 'C'], asmExec),
    (['C', 'R', 'C', '6'], asmCrc6),
    (['S', 'E', 'N', 'D'], asmSend),
    (['S', 'E', 'T', 'P', 'R', 'O', 'P'], asmSetProp ops),
    (['G', 'E', 'T', 'P', 'R', 'O', 'P'], asmGetProp ops) ]

/-- The instruction a line assembles to (R70, R71). -/
def asmInstr (ops : HostOpcodes) (line : AsmLine) : Option Instr :=
  match (asmTable ops).find? fun row => row.1 == line.mnemonic with
  | some row => row.2 line.operands
  | none => none

/-- The request frame a line assembles to (R70). -/
def assemble (ops : HostOpcodes) (line : AsmLine) : Option Frame :=
  (asmInstr ops line).map encode

/-! ### Reading a line of text (R70) -/

/-- The value of a digit in base 10 or 16. -/
def digitValue (base : Nat) (c : Char) : Option Nat :=
  let v :=
    if '0' ≤ c ∧ c ≤ '9' then some (c.toNat - '0'.toNat)
    else if 'a' ≤ c ∧ c ≤ 'f' then some (c.toNat - 'a'.toNat + 10)
    else if 'A' ≤ c ∧ c ≤ 'F' then some (c.toNat - 'A'.toNat + 10)
    else none
  match v with
  | some d => if d < base then some d else none
  | none => none

/-- At least one digit, all in the base. -/
def readDigits (base : Nat) (cs : List Char) : Option Nat :=
  if cs = [] then none
  else cs.foldl (fun acc c => do return base * (← acc) + (← digitValue base c)) (some 0)

/-- A number: decimal, or hexadecimal after `0x`. -/
def readNumber : List Char → Option Nat
  | '0' :: 'x' :: cs => readDigits 16 cs
  | cs => readDigits 10 cs

/-- The pieces of a text between a separator. -/
def splitAtChar (sep : Char) : List Char → List (List Char)
  | [] => [[]]
  | c :: cs =>
    if c = sep then [] :: splitAtChar sep cs
    else
      match splitAtChar sep cs with
      | [] => [[c]]
      | piece :: pieces => (c :: piece) :: pieces

/-- The items of an operand field, split at the commas outside brackets, with the brackets kept. -/
def splitOperands (inside : Bool) : List Char → List (List Char)
  | [] => [[]]
  | c :: cs =>
    if c = ',' ∧ inside = false then [] :: splitOperands false cs
    else
      let inside' := if c = '[' then true else if c = ']' then false else inside
      match splitOperands inside' cs with
      | [] => [[c]]
      | piece :: pieces => (c :: piece) :: pieces

/-- A byte list's text, after its opening bracket. -/
def readByteList (cs : List Char) : Option (List Nat) :=
  match cs.reverse with
  | ']' :: inner =>
    if inner = [] then some [] else (splitAtChar ',' inner.reverse).mapM readNumber
  | _ => none

/-- An operand's text. -/
def readOperand : List Char → Option AsmOperand
  | '[' :: cs => (readByteList cs).map .bytes
  | cs => (readNumber cs).map .num

/-- A line's text: the mnemonic up to the first space, and the operands; other spaces do not count
(log entry 13). -/
def readLine (text : List Char) : Option AsmLine :=
  let operandText := (text.dropWhile (· ≠ ' ')).filter (· ≠ ' ')
  if operandText = [] then none
  else ((splitOperands false operandText).mapM readOperand).map
    fun operands => ⟨text.takeWhile (· ≠ ' '), operands⟩

end Sys2Proof.Machine
end

