-- ==== Sys2Proof/Safety.lean ====
section
/-! DEFINITION. The terms statements about the block are made in: the reset signal at a step, the invariants
of spec R30 together with R27's discipline of the latches and the chip-select spans of R47, runs
without a fault, the bus events of a readiness wait, and the binary64 numbers. -/

namespace Sys2Proof.Machine

/-! ### The reset signal at a step (R200) -/

/-- Reset is not asserted at the coming step. -/
abbrev resetReleased (s : State) : Prop := s.resetLine.head? ≠ some true

/-- `s` with one sample of the reset signal used up. -/
def tick (s : State) : State := { s with resetLine := s.resetLine.tail }

/-! ### Response frames (R66, R67, R68) -/

/-- A frame the block may produce: `OK` with a result of at most 255 bytes, or one of the five error
codes alone. The status codes 0x06 to 0xFF are not among them. -/
def legalResponse (f : Frame) : Prop :=
  (∃ result, f = 0x00 :: result ∧ result.length ≤ 255) ∨
    f = [0x01] ∨ f = [0x02] ∨ f = [0x03] ∨ f = [0x04] ∨ f = [0x05]

/-! ### Chip-select spans (R47, R140) -/

/-- Whether the chip is selected after one more event; `none` once an event stands where it may not: a
selection inside a span, a deselection outside one, bytes moved outside one, a sleep inside one. -/
def spanStep (selected : Option Bool) (e : BusEvent) : Option Bool :=
  match selected, e with
  | some false, .sel => some true
  | some true, .desel => some false
  | some true, .wr _ => some true
  | some true, .wrErr _ => some true
  | some true, .rd _ _ => some true
  | some true, .rdErr _ => some true
  | some false, .slp _ => some false
  | _, _ => none

/-- Whether the chip is selected after a trace; `none` if the trace breaks its spans. -/
def spanAfter (trace : List BusEvent) : Option Bool := trace.foldl spanStep (some false)

/-! ### The sequencer's labels (R145) -/

/-- The phase a label belongs to. -/
def pointPhase : Point → Phase
  | .a1 | .a2 | .a3 | .a4 | .a5 => .execPre
  | .b1 | .b2 | .b3 => .execSend
  | .c1 | .c2 | .c3 | .c4 | .c5 | .c6 | .c7 => .execResp

/-- Whether the chip is selected when the sequencer stands at a label. -/
def pointSelected : Point → Bool
  | .a2 | .a3 | .a4 | .b2 | .b3 | .c2 | .c3 | .c4 | .c5 | .c6 => true
  | .a1 | .a5 | .b1 | .c1 | .c7 => false

/-- Whether another poll is still to start from a label of a readiness wait. -/
def pointBeforePoll : Point → Bool
  | .a1 | .a5 | .c1 | .c7 => true
  | _ => false

/-- `n` polls are allowed in one wait (R143). -/
def pollsAllowed (p : Params) (n : Nat) : Prop :=
  match p.ctsMaxPolls with
  | .bounded most => n ≤ most
  | .unbounded => True

/-! ### The invariants (R30, R27) -/

/-- `IDLE`: chip deselected, and no latch holds a value (R30 a, R27, R145 `clear`). -/
structure IdleShape (s : State) : Prop where
  point : s.point = none
  polls : s.polls = 0
  cs : s.cs = false
  cts : s.cts = none
  cmd : s.cmd = none
  args : s.args = none
  rlen : s.rlen = none
  resp : s.resp = none

/-- A request in progress, standing at label `p`: the response port is empty (R30 d), the chip is
selected exactly inside the label's span (R30 b), the poll count is within its bound (R30 c), and
every latch the label's step reads holds a value (R27). -/
structure BusyShape (s : State) (p : Point) : Prop where
  point : s.point = some p
  phase : s.phase = pointPhase p
  out : s.out = none
  cs : s.cs = pointSelected p
  polls : pollsAllowed s.params (if pointBeforePoll p then s.polls + 1 else s.polls)
  cmd : s.cmd ≠ none
  args : ∃ args, s.args = some args ∧ args.length ≤ 255
  rlen : s.rlen ≠ none
  respond : pointPhase p = .execResp → s.rlen ≠ some 0
  cts : p = .a4 → s.cts ≠ none
  ready : p = .c4 ∨ p = .c5 → s.cts = some 0xFF
  notReady : p = .c6 → ∃ b, s.cts = some b ∧ b ≠ 0xFF
  resp : if p = .c5 then
      ∃ rlen resp, s.rlen = some rlen ∧ s.resp = some resp ∧ resp.length = rlen.toNat
    else s.resp = none

/-- What every state the block can be in meets (R30). -/
structure State.Inv (s : State) : Prop where
  /-- One request at most is in progress: the block is idle, or stands at one label (R30 a, b, d, e). -/
  shape : (s.phase = .idle ∧ IdleShape s) ∨ ∃ p, BusyShape s p
  /-- The trace is made of whole spans, and `s.cs` says whether one is open (R30 b, R47). -/
  spans : spanAfter s.trace = some s.cs
  /-- The response in the port is one the block may produce (R67). -/
  out : ∀ f, s.out = some f → legalResponse f
  /-- So is every response the host has taken. -/
  delivered : ∀ f ∈ s.delivered, legalResponse f

/-- A safe state: no run from it stops (R27, I16). -/
def safe (s : State) : Prop := ∀ k, ∃ t, Host.Core.run Sys2Proof.core k s = .next t

/-! ### The bus events of an EXEC (R74, R142 to R145) -/

/-- A poll that reads `b` and deselects (R142). -/
def pollEvents (rcb b : Byte) : List BusEvent :=
  [.sel, .wr [rcb], .rd 1 [b], .desel]

/-- Polls that read not ready, each with the sleep after it (R143). -/
def pollsThatSleep (rcb : Byte) (reads : List Byte) : List BusEvent :=
  reads.flatMap fun b => pollEvents rcb b ++ [.slp 20]

/-- The readiness wait before the command: polls that read `reads`, and one that reads ready. -/
def waitEvents (rcb : Byte) (reads : List Byte) : List BusEvent :=
  pollsThatSleep rcb reads ++ pollEvents rcb 0xFF

/-- The command write (R74). -/
def commandEvents (cmd : Byte) (args : List Byte) : List BusEvent :=
  [.sel, .wr (cmd :: args), .desel]

/-- The poll that reads ready and reads the response in the same span (R144). -/
def responseEvents (rcb : Byte) (resp : List Byte) : List BusEvent :=
  [.sel, .wr [rcb], .rd 1 [0xFF], .rd resp.length resp, .desel]

/-- A wait in which every poll reads not ready: no sleep after the last one (R143). -/
def failedWaitEvents (rcb : Byte) (reads : List Byte) (last : Byte) : List BusEvent :=
  pollsThatSleep rcb reads ++ pollEvents rcb last

/-- Every byte of the list reads not ready (R142). -/
def allNotReady (reads : List Byte) : Prop := ∀ b ∈ reads, b ≠ 0xFF

/-- The block's record (R26), without the world around it. -/
def sameRecord (s t : State) : Prop :=
  s.phase = t.phase ∧ s.point = t.point ∧ s.polls = t.polls ∧ s.cs = t.cs ∧ s.cts = t.cts ∧
    s.cmd = t.cmd ∧ s.args = t.args ∧ s.rlen = t.rlen ∧ s.resp = t.resp ∧ s.out = t.out

/-! ### Binary64 numbers (R9) -/

/-- A finite binary64 number, but for the bound on its exponent above: an integer of at most 53 bits times a
power of two not less than the smallest subnormal. -/
def representable (v : Rat) : Prop :=
  ∃ m e : Int, m.natAbs < 2 ^ 53 ∧ -1074 ≤ e ∧ v = (m : Rat) * (2 : Rat) ^ e

/-- In the range of the positive normal binary64 numbers: neither subnormal nor overflowing (R176). -/
def normalRange (v : Rat) : Prop := (2 : Rat) ^ (-1022 : Int) ≤ v ∧ v < (2 : Rat) ^ (1024 : Int)

end Sys2Proof.Machine
end

