-- ==== Sys2Proof/Certificates/Slice0/Obligations.lean ====
section
/-! DEFINITION. The statements for the provers, in the order of the spec's files. -/

open Sys2Proof Sys2Proof.Machine

/-! ### Requests as bytes (30_encoding.md) -/

/-- Decoding the frame of a well-formed instruction gives the instruction back, every operand at every
value its field admits (R62, R70). -/
def Obligations.DecodeOfEncode : Prop :=
  ∀ i : Instr, i.wellFormed = true → decode (encode i) = .ok i

/-- A frame that decodes is the frame of the one instruction it decodes to (R65): no bit of a frame is
ignored, and no two frames mean the same. -/
def Obligations.EncodeOfDecode : Prop :=
  ∀ (f : Frame) (i : Instr), decode f = .ok i → encode i = f ∧ i.wellFormed = true

/-- R63: which frames are well formed, with the length each operation requires. -/
def Obligations.WellFormedFrames : Prop :=
  ∀ f : Frame, (∃ i, decode f = .ok i) ↔
    (∃ len rest, f = 0x01 :: len :: rest ∧ f.length = 2 + len.toNat) ∨
    (∃ rest, f = 0x02 :: rest ∧ f.length = 7) ∨
    (∃ rest, f = 0x03 :: rest ∧ f.length = 8) ∨
    (∃ opc rest, f = opc :: rest ∧ (opc = 0x10 ∨ opc = 0x11 ∨ opc = 0x12) ∧ f.length = 3) ∨
    (∃ cmd nargs rest, f = 0x20 :: cmd :: nargs :: rest ∧ f.length = 4 + nargs.toNat)

/-- R60: a well-formed request has 2 to 259 bytes; `CRC` with `LEN = 0` is the only shortest one, and
the longest ones are the `EXEC`s with 255 arguments. -/
def Obligations.RequestLengths : Prop :=
  ∀ (f : Frame) (i : Instr), decode f = .ok i →
    2 ≤ f.length ∧ f.length ≤ 259 ∧
    (f.length = 2 ↔ i = .crc []) ∧
    (f.length = 259 ↔ ∃ cmd args rlen, i = .exec cmd args rlen ∧ args.length = 255)

/-- R61: the seven operation codes are assigned, and every other one is illegal. -/
def Obligations.OperationCodes : Prop :=
  (∀ (b : Byte) (rest : List Byte),
    b ∉ [0x01, 0x02, 0x03, 0x10, 0x11, 0x12, 0x20] ↔ decode (b :: rest) = .error .unknownOpcode) ∧
  (∀ b ∈ ([0x01, 0x02, 0x03, 0x10, 0x11, 0x12, 0x20] : List Byte),
    ∃ rest i, decode (b :: rest) = .ok i)

/-- R64: the operands of every format, assembled big-endian and unsigned; every 16-bit channel
decodes. -/
def Obligations.OperandAssembly : Prop :=
  (∀ o3 o2 o1 o0 c1 c0 : Byte, ∃ (opcode : Word) (channel : Half),
    decode [0x02, o3, o2, o1, o0, c1, c0] = .ok (.pktBuild opcode channel) ∧
    opcode.toNat = o3.toNat * 2 ^ 24 + o2.toNat * 2 ^ 16 + o1.toNat * 2 ^ 8 + o0.toNat ∧
    channel.toNat = c1.toNat * 2 ^ 8 + c0.toNat) ∧
  (∀ c1 c0 : Byte, ∃ channel : Half,
    channel.toNat = c1.toNat * 2 ^ 8 + c0.toNat ∧
    decode [0x10, c1, c0] = .ok (.pllFreq channel) ∧
    decode [0x11, c1, c0] = .ok (.pllParams channel) ∧
    decode [0x12, c1, c0] = .ok (.pllRegs channel)) ∧
  (∀ (len : Byte) (data : List Byte), data.length = len.toNat →
    decode (0x01 :: len :: data) = .ok (.crc data)) ∧
  (∀ packet : Vector Byte 7, decode (0x03 :: packet.toList) = .ok (.pktCheck packet)) ∧
  (∀ (cmd nargs rlen : Byte) (args : List Byte), args.length = nargs.toNat →
    decode (0x20 :: cmd :: nargs :: (args ++ [rlen])) = .ok (.exec cmd args rlen))

/-- Words written out from R62's layouts decode to the instructions they stand for (sanity). -/
def Obligations.WrittenWordsDecode : Prop :=
  decode [0x01, 0x02, 0xAA, 0xBB] = .ok (.crc [0xAA, 0xBB]) ∧
  decode [0x02, 0x96, 0x53, 0x00, 0x05, 0x00, 0x2A] = .ok (.pktBuild 0x96530005 42) ∧
  decode [0x03, 0x96, 0x53, 0x00, 0x05, 0x00, 0x2A, 0xBC] =
    .ok (.pktCheck #v[0x96, 0x53, 0x00, 0x05, 0x00, 0x2A, 0xBC]) ∧
  decode [0x10, 0x01, 0xE0] = .ok (.pllFreq 480) ∧
  decode [0x11, 0x27, 0x7F] = .ok (.pllParams 10111) ∧
  decode [0x12, 0x11, 0x4F] = .ok (.pllRegs 4431) ∧
  decode [0x20, 0x12, 0x03, 0x40, 0x02, 0x00, 0x02] = .ok (.exec 0x12 [0x40, 0x02, 0x00] 2)

/-- R69: a frame is ill formed exactly in R69's five cases (it is empty, its operation code is not in
the table, it ends before its length byte, it is shorter or longer than required), and the block
answers it `[0x05]` and changes nothing else: the request is used up, and no bus primitive is
called. -/
def Obligations.IllFormedAnswered : Prop :=
  (∀ f : Frame, (∃ e, decode f = .error e) ↔
    f = [] ∨
    (∃ opc rest, f = opc :: rest ∧ opc ∉ [0x01, 0x02, 0x03, 0x10, 0x11, 0x12, 0x20]) ∨
    f = [0x01] ∨ f = [0x20] ∨ (∃ cmd, f = [0x20, cmd]) ∨
    (∃ n, requiredLength f = .ok n ∧ f.length < n) ∨
    (∃ n, requiredLength f = .ok n ∧ n < f.length)) ∧
  (∀ (s : State) (f : Frame) (rest : List Frame) (e : IllFormed),
    resetReleased s → s.phase = .idle → s.out = none → s.requests = f :: rest →
    decode f = .error e →
    step s = .next { tick s with requests := rest, out := some [0x05] })

/-- R70: each line of assembly assembles to the frame R70 gives it, whatever its operands, and a list
longer than 255 bytes, a packet that is not of 7 bytes, or a number that does not fit its field is
refused. -/
def Obligations.AssemblyLines : Prop :=
  ∀ ops : HostOpcodes,
  (∀ ds : List Byte, assemble ops ⟨"CRC".toList, [.bytes (ds.map BitVec.toNat)]⟩ =
    if ds.length ≤ 255 then some (0x01 :: BitVec.ofNat 8 ds.length :: ds) else none) ∧
  (∀ (op : Word) (ch : Half),
    assemble ops ⟨"PKT_BUILD".toList, [.num op.toNat, .num ch.toNat]⟩ =
      some (0x02 :: (be32 op ++ be16 ch))) ∧
  (∀ p : Vector Byte 7,
    assemble ops ⟨"PKT_CHECK".toList, [.bytes (p.toList.map BitVec.toNat)]⟩ =
      some (0x03 :: p.toList)) ∧
  (∀ ch : Half,
    assemble ops ⟨"PLL_FREQ".toList, [.num ch.toNat]⟩ = some (0x10 :: be16 ch) ∧
    assemble ops ⟨"PLL_PARAMS".toList, [.num ch.toNat]⟩ = some (0x11 :: be16 ch) ∧
    assemble ops ⟨"PLL_REGS".toList, [.num ch.toNat]⟩ = some (0x12 :: be16 ch)) ∧
  (∀ (cmd rlen : Byte) (as : List Byte),
    assemble ops ⟨"EXEC".toList, [.num cmd.toNat, .bytes (as.map BitVec.toNat), .num rlen.toNat]⟩ =
      if as.length ≤ 255 then
        some (0x20 :: cmd :: BitVec.ofNat 8 as.length :: (as ++ [rlen]))
      else none) ∧
  (∀ ch, 2 ^ 16 ≤ ch →
    assemble ops ⟨"PLL_FREQ".toList, [.num ch]⟩ = none ∧
    assemble ops ⟨"PLL_PARAMS".toList, [.num ch]⟩ = none ∧
    assemble ops ⟨"PLL_REGS".toList, [.num ch]⟩ = none) ∧
  (∀ op ch, 2 ^ 32 ≤ op ∨ 2 ^ 16 ≤ ch →
    assemble ops ⟨"PKT_BUILD".toList, [.num op, .num ch]⟩ = none) ∧
  (∀ ps : List Nat, ps.length ≠ 7 ∨ (∃ n ∈ ps, 2 ^ 8 ≤ n) →
    assemble ops ⟨"PKT_CHECK".toList, [.bytes ps]⟩ = none) ∧
  (∀ ns : List Nat, 255 < ns.length ∨ (∃ n ∈ ns, 2 ^ 8 ≤ n) →
    assemble ops ⟨"CRC".toList, [.bytes ns]⟩ = none ∧
    ∀ cmd rlen, assemble ops ⟨"EXEC".toList, [.num cmd, .bytes ns, .num rlen]⟩ = none) ∧
  (∀ (cmd rlen : Nat) (ns : List Nat), 2 ^ 8 ≤ cmd ∨ 2 ^ 8 ≤ rlen →
    assemble ops ⟨"EXEC".toList, [.num cmd, .bytes ns, .num rlen]⟩ = none)

/-- R71: each pseudo-operation is the one request R71 expands it to. -/
def Obligations.PseudoOperations : Prop :=
  ∀ ops : HostOpcodes,
  (∀ d0 d1 d2 d3 d4 d5 : Byte,
    asmInstr ops ⟨"CRC6".toList, [.num d0.toNat, .num d1.toNat, .num d2.toNat, .num d3.toNat,
      .num d4.toNat, .num d5.toNat]⟩ = some (.crc [d0, d1, d2, d3, d4, d5])) ∧
  (∀ (cmd : Byte) (as : List Byte), as.length ≤ 255 →
    asmInstr ops ⟨"SEND".toList, [.num cmd.toNat, .bytes (as.map BitVec.toNat)]⟩ =
      some (.exec cmd as 0)) ∧
  (∀ (grp idx : Byte) (ds : List Byte), ds.length ≤ 252 →
    asmInstr ops
        ⟨"SETPROP".toList, [.num grp.toNat, .num idx.toNat, .bytes (ds.map BitVec.toNat)]⟩ =
      some (.exec ops.setProperty (grp :: BitVec.ofNat 8 ds.length :: idx :: ds) 0)) ∧
  (∀ grp idx m : Byte,
    asmInstr ops ⟨"GETPROP".toList, [.num grp.toNat, .num idx.toNat, .num m.toNat]⟩ =
      some (.exec ops.getProperty [grp, m, idx] m))

/-- R80: the replay of a table of entries of 1 to 16 bytes issues one `SEND` for each entry, in order,
whether the terminator stands or the table ends at an entry boundary; a length above 16, or an
entry cut short, is malformed. That a malformed table keeps the `SEND`s issued before its bad entry is the
model's choice (log entry 11). -/
def Obligations.ConfigurationReplay : Prop :=
  ∀ (entries : List (Byte × List Byte)), (∀ e ∈ entries, e.2.length ≤ 15) →
    let flat := entries.flatMap fun e => BitVec.ofNat 8 (e.2.length + 1) :: e.1 :: e.2
    let sends := entries.map fun e => Instr.exec e.1 e.2 0
    replayTable flat = ⟨sends, false⟩ ∧
    (∀ tail, replayTable (flat ++ 0 :: tail) = ⟨sends, false⟩) ∧
    (∀ (len : Byte) (tail : List Byte), len ≠ 0 → (16 < len.toNat ∨ tail.length < len.toNat) →
      replayTable (flat ++ len :: tail) = ⟨sends, true⟩)

/-! ### The host port and the step (20_memory.md) -/

/-- A step with a request waiting, the block idle and the response port empty, is the run of the
instruction the request decodes to, with the request and one sample of the reset signal used up (the
requests and the reset signal as lists in State: log entries 5 and 8). -/
def Obligations.StepRunsDecodedRequest : Prop :=
  ∀ (s : State) (f : Frame) (rest : List Frame) (i : Instr),
    resetReleased s → s.phase = .idle → s.out = none → s.requests = f :: rest →
    decode f = .ok i →
    step s = Sys2Proof.Machine.exec i { tick s with requests := rest }

/-- R44: a request is accepted only in `IDLE` with `s.out` empty, one at a time and in order, and none is
dropped; a response is placed in `s.out` when its request ends; and it leaves `s.out` only by the host's
taking it (reset apart), no request being accepted in that step. -/
def Obligations.RequestsServedInOrder : Prop :=
  ∀ s t : State, step s = .next t →
    (t.requests = s.requests ∨
      ∃ f, s.requests = f :: t.requests ∧ s.phase = .idle ∧ s.out = none ∧ resetReleased s) ∧
    (t.requests ≠ s.requests → t.out ≠ none ∨ t.phase ≠ .idle) ∧
    (s.phase ≠ .idle → t.phase = .idle → resetReleased s → t.out ≠ none) ∧
    (∀ f, s.out = some f → t.out ≠ s.out → s.phase = .idle → resetReleased s →
      t.delivered = s.delivered ++ [f]) ∧
    (t.delivered = s.delivered ∨
      ∃ f, s.out = some f ∧ t.delivered = s.delivered ++ [f] ∧ t.out = none ∧
        t.requests = s.requests)

/-- An idle block takes no part in the world but at its host port: a response in `s.out` is taken by the host
(in the very next step: the model's choice, log entry 6), and with nothing to take and nothing to accept
the block waits (R200). Each step uses up one sample of the reset signal (log entry 5). -/
def Obligations.IdleBlockWaits : Prop :=
  ∀ s : State, resetReleased s → s.phase = .idle →
    (∀ f, s.out = some f →
      step s = .next { tick s with out := none, delivered := s.delivered ++ [f] }) ∧
    (s.out = none → s.requests = [] → step s = .next (tick s))

/-- R49, R48: a step adds its bus events at the end of the trace and never more than a primitive and the
`Desel` of an abort (in one step with the failed call: log entry 4; reset in a span records its `Desel`:
log entry 5); a step that fills `s.out` leaves the block idle, so no bus event of that request
can follow its response. -/
def Obligations.TraceIsOneOrder : Prop :=
  ∀ s t : State, step s = .next t →
    (∃ es, t.trace = s.trace ++ es ∧
      (es.length ≤ 1 ∨ ∃ e, es = [e, .desel] ∧ t.out = some [0x04])) ∧
    (s.out = none → t.out ≠ none → t.phase = .idle)

/-- R140: the block calls no bus primitive outside `EXEC`: an idle, deselected block leaves the trace and
the oracle alone, whichever request it accepts. -/
def Obligations.OnlyExecUsesTheBus : Prop :=
  ∀ s t : State, s.phase = .idle → s.cs = false → step s = .next t →
    t.trace = s.trace ∧ t.oracle = s.oracle ∧ t.cs = false

/-! ### The CRC unit (40_crc.md) -/

/-- R101: the table-driven CRC-8. -/
def Obligations.CrcIsTableDriven : Prop :=
  ∀ table : CrcTable, crc8 table [] = 0xFF ∧
    ∀ (bs : List Byte) (b : Byte),
      crc8 table (bs ++ [b]) = table[(crc8 table bs ^^^ b).toNat]'(BitVec.isLt _)

/-- R104: the frame of `CRC`; it answers `[0x00, crc8(DATA)]` and changes nothing else; the empty buffer gives 0xFF for
every table, `[0xFF]` gives entry 0, and one byte reaches the entry `0xFF ^ b`. -/
def Obligations.CrcAnswers : Prop :=
  ∀ s : State,
    (∀ data, data.length ≤ 255 →
      decode (0x01 :: BitVec.ofNat 8 data.length :: data) = .ok (.crc data)) ∧
    (∀ data, Sys2Proof.Machine.exec (.crc data) s =
      .next { s with out := some [0x00, crc8 s.params.crcTable data] }) ∧
    Sys2Proof.Machine.exec (.crc []) s = .next { s with out := some [0x00, 0xFF] } ∧
    Sys2Proof.Machine.exec (.crc [0xFF]) s =
      .next { s with out := some [0x00, s.params.crcTable[0]] } ∧
    (∀ b, Sys2Proof.Machine.exec (.crc [b]) s =
      .next { s with out := some [0x00, s.params.crcTable[(0xFF ^^^ b).toNat]'(BitVec.isLt _)] })

/-- R105: the frame of `PKT_BUILD`; it answers the seven bytes of the control packet, for every opcode and every channel,
and changes nothing else. -/
def Obligations.PktBuildAnswers : Prop :=
  ∀ (s : State) (op : Word) (ch : Half), ∃ o3 o2 o1 o0 c1 c0 : Byte,
    op.toNat = ((o3.toNat * 256 + o2.toNat) * 256 + o1.toNat) * 256 + o0.toNat ∧
    ch.toNat = c1.toNat * 256 + c0.toNat ∧
    decode [0x02, o3, o2, o1, o0, c1, c0] = .ok (.pktBuild op ch) ∧
    Sys2Proof.Machine.exec (.pktBuild op ch) s =
      .next { s with out := some [0x00, o3, o2, o1, o0, c1, c0,
        crc8 s.params.crcTable [o3, o2, o1, o0, c1, c0]] }

/-- R107: the frame of `PKT_CHECK`; it answers 0x01 when byte 6 is the CRC of bytes 0 to 5 and 0x00 when it is not, for
every packet, and changes nothing else. -/
def Obligations.PktCheckAnswers : Prop :=
  ∀ (s : State) (p0 p1 p2 p3 p4 p5 p6 : Byte),
    decode [0x03, p0, p1, p2, p3, p4, p5, p6] =
      .ok (.pktCheck #v[p0, p1, p2, p3, p4, p5, p6]) ∧
    Sys2Proof.Machine.exec (.pktCheck #v[p0, p1, p2, p3, p4, p5, p6]) s =
      .next { s with out := some [0x00,
        if crc8 s.params.crcTable [p0, p1, p2, p3, p4, p5] = p6 then 0x01 else 0x00] }

/-- R107's corner cases: a packet `PKT_BUILD` answered always checks as 0x01, and with its byte 6 changed
always as 0x00. -/
def Obligations.BuiltPacketsCheck : Prop :=
  ∀ (s t : State) (op : Word) (ch : Half) (p q : Vector Byte 7),
    Sys2Proof.Machine.exec (.pktBuild op ch) s = .next t → t.out = some (0x00 :: p.toList) →
    Sys2Proof.Machine.exec (.pktCheck p) s = .next { s with out := some [0x00, 0x01] } ∧
    (q.toList.take 6 = p.toList.take 6 → q ≠ p →
      Sys2Proof.Machine.exec (.pktCheck q) s = .next { s with out := some [0x00, 0x00] })

/-- R103: each candidate table has 256 distinct entries, and entry 0 is 0x00; and the CRC of R105's example
packet under each (general knowledge in the spec, as its rule says: candidate values of an OPEN
parameter). -/
def Obligations.CandidateTables : Prop :=
  (∀ table ∈ [tableM8D, tableR8D, tableL8D],
    table[0] = 0x00 ∧ Function.Injective (crcLookup table)) ∧
  crc8 tableM8D [0x96, 0x53, 0x00, 0x05, 0x00, 0x2A] = 0xBC ∧
  crc8 tableR8D [0x96, 0x53, 0x00, 0x05, 0x00, 0x2A] = 0x27 ∧
  crc8 tableL8D [0x96, 0x53, 0x00, 0x05, 0x00, 0x2A] = 0xAA

/-- R108: for a table that is a bijection with `T[0] = 0x00`, `crc8` of the seven bytes is 0x00 exactly
when `PKT_CHECK` answers 0x01; the three candidates are such tables. -/
def Obligations.PacketResidue : Prop :=
  (∀ (s : State) (p : Vector Byte 7), s.params.crcTable[0] = 0x00 →
    Function.Bijective (crcLookup s.params.crcTable) →
    (crc8 s.params.crcTable p.toList = 0x00 ↔
      Sys2Proof.Machine.exec (.pktCheck p) s = .next { s with out := some [0x00, 0x01] })) ∧
  (∀ table ∈ [tableM8D, tableR8D, tableL8D],
    table[0] = 0x00 ∧ Function.Bijective (crcLookup table))

/-- R109: the candidate tables are additive, and `crc8` over a fixed length is affine. -/
def Obligations.CrcIsAffine : Prop :=
  ∀ table ∈ [tableM8D, tableR8D, tableL8D],
    (∀ a b, crcLookup table (a ^^^ b) = crcLookup table a ^^^ crcLookup table b) ∧
    (∀ x y : List Byte, x.length = y.length →
      crc8 table (List.zipWith (· ^^^ ·) x y) =
        crc8 table x ^^^ crc8 table y ^^^ crc8 table (List.replicate x.length 0))

/-! ### The PLL synthesizer unit (41_pll.md) -/

/-- D7, R9: the rounding of binary64: the result is representable, no representable number is nearer, and
of two that are equally near it is the one with an even significand. The exponent has no upper bound
here, so that nothing overflows (the model's reading of R176: log entry 7). -/
def Obligations.RoundingIsNearestEven : Prop :=
  ∀ v : Rat, representable (roundEven v) ∧
    (∀ y, representable y → |roundEven v - v| ≤ |y - v|) ∧
    (∀ y, representable y → |roundEven v - v| = |y - v| → y ≠ roundEven v →
      ∃ k : Int, roundEven v = (2 * k : Int) * pow2 (ulpExp v))

/-- R120: the channel code, an exact integer, for every 16-bit channel. -/
def Obligations.ChannelCodes : Prop :=
  ∀ ch : Half,
    (8862 < ch.toNat → channelCode ch = 2 * ch.toNat + 10658) ∧
    (ch.toNat ≤ 8862 → channelCode ch = ch.toNat + 19520) ∧
    channelCode ch ≤ 141728 ∧ channelCode ch ≠ 28383 ∧
    (1 ≤ ch.toNat → ch.toNat ≤ 8862 → 19521 ≤ channelCode ch ∧ channelCode ch ≤ 28382) ∧
    (8863 ≤ ch.toNat → ch.toNat ≤ 10111 → 28384 ≤ channelCode ch ∧ channelCode ch ≤ 30880)

/-- R124: `PLL_FREQ` answers, for every 16-bit channel, the IEEE 754 pattern of `10 * (43 + fc/64000)`, each
operation rounded once and in that order, most significant byte first, and changes nothing else. The
pattern `w` is read by the standard's formula for a positive normal number. -/
def Obligations.PllFreqAnswers : Prop :=
  ∀ (s : State) (ch : Half), ∃ (w : BitVec 64) (fc : Nat),
    decode [0x10, BitVec.ofNat 8 (ch.toNat / 256), BitVec.ofNat 8 ch.toNat] = .ok (.pllFreq ch) ∧
    fc = (if 8862 < ch.toNat then 2 * ch.toNat + 10658 else ch.toNat + 19520) ∧
    1 ≤ w.toNat / 2 ^ 52 ∧ w.toNat / 2 ^ 52 ≤ 2046 ∧
    ((2 ^ 52 + w.toNat % 2 ^ 52 : Nat) : Rat) * (2 : Rat) ^ ((w.toNat / 2 ^ 52 : Nat) - 1075 : Int) =
      roundEven (10 * roundEven (43 + roundEven (fc / 64000))) ∧
    Sys2Proof.Machine.exec (.pllFreq ch) s =
      .next { s with out := some (0x00 ::
        [7, 6, 5, 4, 3, 2, 1, 0].map fun k => BitVec.ofNat 8 (w.toNat / 2 ^ (8 * k))) }

/-- R176: for every 16-bit channel the frequency is positive and below 453 MHz and 4.53e8 Hz, and every
value of R121 is a positive normal binary64 number; so is every value of R122 on the channels that
compute them, those of R125: nothing overflows or underflows. -/
def Obligations.NoExceptionalValues : Prop :=
  ∀ (ch : Half) (n : Rat), n = dividerRatio (channelCode ch) →
    0 < frequencyMhz (channelCode ch) ∧ frequencyMhz (channelCode ch) < 453 ∧
    0 < frequencyHz (channelCode ch) ∧ frequencyHz (channelCode ch) < 453000000 ∧
    (∀ x ∈ [f64Div (f64OfNat (channelCode ch)) (f64OfNat 64000),
        f64Add (f64OfNat 43) (f64Div (f64OfNat (channelCode ch)) (f64OfNat 64000)),
        frequencyMhz (channelCode ch), frequencyHz (channelCode ch),
        f64Mul (f64OfNat 2) (f64OfNat 30000000), dividerHz, n],
      normalRange x) ∧
    (1 ≤ ch.toNat → ch.toNat ≤ 10111 →
      ∀ x ∈ [integralPart n, f64Sub n (integralPart n), normalInteger n, normalFraction n,
          f64Mul (normalFraction n) (f64OfNat 524288)],
        normalRange x)

/-- 90_conflicts.md C2: for a representable `N ≥ 0` the check of R122, on the closed interval, cannot fail. -/
def Obligations.FractionCheckPasses : Prop :=
  ∀ n : Rat, 0 ≤ n → representable n → fractionInRange n = true

/-- R125: `PLL_PARAMS`: outside [1, 10111] the answer is `OUT_OF_RANGE`, before any arithmetic; inside it
is `[0x00, INTE] ++ BE32(FRAC)` of R120 to R122, each operation rounded once. An idle block changes
nothing else. -/
def Obligations.PllParamsAnswers : Prop :=
  ∀ (s : State) (ch : Half), s.phase = .idle → IdleShape s →
    decode [0x11, BitVec.ofNat 8 (ch.toNat / 256), BitVec.ofNat 8 ch.toNat] = .ok (.pllParams ch) ∧
    (ch.toNat = 0 ∨ 10112 ≤ ch.toNat →
      Sys2Proof.Machine.exec (.pllParams ch) s = .next { s with out := some [0x01] }) ∧
    (1 ≤ ch.toNat → ch.toNat ≤ 10111 → ∃ (fc : Nat) (n fp1 : Rat),
      fc = (if 8862 < ch.toNat then 2 * ch.toNat + 10658 else ch.toNat + 19520) ∧
      n = roundEven (roundEven (1000000 *
        roundEven (10 * roundEven (43 + roundEven (fc / 64000)))) / 7500000) ∧
      fp1 = roundEven (roundEven (n - n.floor) + 1) ∧
      Sys2Proof.Machine.exec (.pllParams ch) s =
        .next { s with out := some (0x00 :: BitVec.ofInt 8 (roundEven (n.floor - 1)).floor ::
          be32 (BitVec.ofInt 32 (roundEven (fp1 * 524288)).floor)) })

/-- R123, R126: the closed form of `PLL_PARAMS` on every valid channel, the register values written out. -/
def Obligations.PllParamsClosedForm : Prop :=
  ∀ (s : State) (ch : Half), 1 ≤ ch.toNat → ch.toNat ≤ 10111 →
    ∀ fc frac : Nat,
      fc = (if 8862 < ch.toNat then 2 * ch.toNat + 10658 else ch.toNat + 19520) →
      frac = 2 ^ 19 + (fc + 16000) * 4096 / 375 →
      Sys2Proof.Machine.exec (.pllParams ch) s =
        .next { s with out := some [0x00, 56, 0x00, BitVec.ofNat 8 (frac / 2 ^ 16),
          BitVec.ofNat 8 (frac / 2 ^ 8), BitVec.ofNat 8 frac] }

/-- R127: `PLL_REGS` answers `[0x00, INTE]` and the low three bytes of the FRAC that `PLL_PARAMS` answers;
the byte dropped is 0x00; an error is the same error. -/
def Obligations.PllRegsAnswers : Prop :=
  ∀ (s t : State) (ch : Half), s.phase = .idle → IdleShape s →
    Sys2Proof.Machine.exec (.pllParams ch) s = .next t →
    decode [0x12, BitVec.ofNat 8 (ch.toNat / 256), BitVec.ofNat 8 ch.toNat] = .ok (.pllRegs ch) ∧
    ((∃ e, t.out = some [e] ∧ Sys2Proof.Machine.exec (.pllRegs ch) s = .next t ∧
      (ch.toNat = 0 ∨ 10112 ≤ ch.toNat)) ∨
    (∃ inte f2 f1 f0, t.out = some [0x00, inte, 0x00, f2, f1, f0] ∧
      1 ≤ ch.toNat ∧ ch.toNat ≤ 10111 ∧
      Sys2Proof.Machine.exec (.pllRegs ch) s =
        .next { s with out := some [0x00, inte, f2, f1, f0] }))

/-- R127, R73: the frequency-control payload of every valid channel, with its bytes written out. -/
def Obligations.PllRegsClosedForm : Prop :=
  ∀ (s : State) (ch : Half), 1 ≤ ch.toNat → ch.toNat ≤ 10111 →
    ∀ fc frac : Nat,
      fc = (if 8862 < ch.toNat then 2 * ch.toNat + 10658 else ch.toNat + 19520) →
      frac = 2 ^ 19 + (fc + 16000) * 4096 / 375 →
      (frac / 2 ^ 16 = 0x0D ∨ frac / 2 ^ 16 = 0x0E ∨ frac / 2 ^ 16 = 0x0F) ∧
      Sys2Proof.Machine.exec (.pllRegs ch) s =
        .next { s with out := some [0x00, 0x38, BitVec.ofNat 8 (frac / 2 ^ 16),
          BitVec.ofNat 8 (frac / 2 ^ 8 % 2 ^ 8), BitVec.ofNat 8 (frac % 2 ^ 8)] }

/-- R126: the ranges on the valid channels: INTE is always 56; FRAC has exactly 20 bits, runs from 912272 at
channel 1 to 1036342 at channel 10111 and rises strictly with the channel; and the renormalised
fraction stays well inside the asserted interval. -/
def Obligations.PllRanges : Prop :=
  (∀ ch : Half, 1 ≤ ch.toNat → ch.toNat ≤ 10111 →
    pllInte (dividerRatio (channelCode ch)) = 56 ∧
    2 ^ 19 ≤ (pllFrac (dividerRatio (channelCode ch))).toNat ∧
    (pllFrac (dividerRatio (channelCode ch))).toNat < 2 ^ 20 ∧
    (pllFrac (dividerRatio (channelCode ch))).extractLsb' 16 8 ∈ ([0x0D, 0x0E, 0x0F] : List Byte) ∧
    174 / 100 ≤ normalFraction (dividerRatio (channelCode ch)) ∧
    normalFraction (dividerRatio (channelCode ch)) ≤ 198 / 100 ∧
    fractionInRange (dividerRatio (channelCode ch)) = true) ∧
  (∀ c d : Half, 1 ≤ c.toNat → c.toNat < d.toNat → d.toNat ≤ 10111 →
    (pllFrac (dividerRatio (channelCode c))).toNat <
      (pllFrac (dividerRatio (channelCode d))).toNat) ∧
  (pllFrac (dividerRatio (channelCode 1))).toNat = 912272 ∧
  (pllFrac (dividerRatio (channelCode 10111))).toNat = 1036342

/-- R128, R129: the relation a host may use gives the exact frequency `430 MHz + 156.25 Hz × fc`, rounded
down by less than `7.5 MHz / 2^19`. -/
def Obligations.RegistersGiveTheFrequency : Prop :=
  ∀ ch : Half, 1 ≤ ch.toNat → ch.toNat ≤ 10111 →
    ∀ f exact : Rat,
      f = relationHz (pllInte (dividerRatio (channelCode ch)))
        (pllFrac (dividerRatio (channelCode ch))) →
      exact = 430000000 + 15625 / 100 * (channelCode ch : Rat) →
      f ≤ exact ∧ exact - f < 7500000 / 2 ^ 19

/-- 40_crc.md, 41_pll.md: in `IDLE` every operation but `EXEC` completes in one step and changes no state but
`s.out`. -/
def Obligations.OneStepOperations : Prop :=
  ∀ (s : State) (i : Instr), s.phase = .idle → IdleShape s →
    (∀ cmd args rlen, i ≠ .exec cmd args rlen) →
    ∃ f, legalResponse f ∧ Sys2Proof.Machine.exec i s = .next { s with out := some f }

/-! ### The handshake sequencer (42_handshake.md) -/

/-- R146, R46: `EXEC` is accepted by latching its operands and beginning the readiness wait; nothing else
changes, and no primitive is called yet. -/
def Obligations.ExecAccepted : Prop :=
  ∀ (s : State) (cmd : Byte) (args : List Byte) (rlen : Byte),
    Sys2Proof.Machine.exec (.exec cmd args rlen) s =
      .next { s with
        cmd := some cmd, args := some args, rlen := some rlen
        phase := .execPre, polls := 0, point := some .a1 }

/-- A busy block's step is the sequencer's step from its label (R145), with one sample of the reset signal
used up (log entry 5). -/
def Obligations.StepRunsSequencer : Prop :=
  ∀ (s : State) (p : Point), resetReleased s → s.phase ≠ .idle → s.point = some p →
    step s = runPoint p (tick s)

/-- R142: a readiness poll is one transaction that counts itself, and the chip is ready exactly when the byte
reads 0xFF: only then does the command follow. -/
def Obligations.ReadinessPoll : Prop :=
  ∀ (s : State) (b : Byte) (faults : List Bool) (bytes : List Byte) (draws : Nat),
    s.resetLine = [] → s.phase = .execPre → s.point = some .a1 →
    s.oracle = ⟨false :: false :: faults, b :: bytes, draws⟩ →
    ∃ t, Host.Core.run Sys2Proof.core 4 s = .next t ∧
      t.trace = s.trace ++ [.sel, .wr [s.params.opReadCmdBuff], .rd 1 [b], .desel] ∧
      t.oracle = ⟨faults, bytes, draws⟩ ∧ t.cs = false ∧
      (b = 0xFF → t.phase = .execSend ∧ t.point = some .b1 ∧ t.polls = s.polls + 1) ∧
      (b ≠ 0xFF → pollsAllowed s.params (s.polls + 2) →
        t.phase = .execPre ∧ t.point = some .a5 ∧ t.polls = s.polls + 1 ∧ t.out = s.out) ∧
      (b ≠ 0xFF → ¬ pollsAllowed s.params (s.polls + 2) →
        t.phase = .idle ∧ t.out = some [0x03])

/-- R143: a wait whose polls all read not ready ends, after exactly `CTS_MAX_POLLS` of them with a sleep
between any two and none after the last, in `DEVICE_NOT_RESPONDING`: before the command, whether or not a
response is due, and, with a count of its own, before the response where one is. -/
def Obligations.ReadinessWaitIsBounded : Prop :=
  ∀ (s s1 : State) (cmd rlen last : Byte) (args reads moreBytes : List Byte) (most : PNat)
    (moreFaults : List Bool),
    s.resetLine = [] → s.params.ctsMaxPolls = .bounded most →
    allNotReady reads → last ≠ 0xFF → reads.length + 1 = (most : Nat) →
    Sys2Proof.Machine.exec (.exec cmd args rlen) s = .next s1 →
    (s.oracle.bytes = reads ++ last :: moreBytes →
      s.oracle.faults = List.replicate (2 * (most : Nat)) false ++ moreFaults →
      ∃ t, Host.Core.run Sys2Proof.core (5 * (most : Nat) - 1) s1 = .next t ∧
        t.phase = .idle ∧ t.out = some [0x03] ∧
        t.trace = s.trace ++ failedWaitEvents s.params.opReadCmdBuff reads last) ∧
    (∀ ready : List Byte, rlen ≠ 0 → allNotReady ready → ready.length + 1 ≤ (most : Nat) →
      s.oracle.bytes = ready ++ 0xFF :: reads ++ last :: moreBytes →
      s.oracle.faults = List.replicate (2 * ready.length + 3 + 2 * (most : Nat)) false ++ moreFaults →
      ∃ t, Host.Core.run Sys2Proof.core (5 * ready.length + 6 + 5 * (most : Nat)) s1 = .next t ∧
        t.phase = .idle ∧ t.out = some [0x03] ∧
        t.trace = s.trace ++ waitEvents s.params.opReadCmdBuff ready ++ commandEvents cmd args ++
          failedWaitEvents s.params.opReadCmdBuff reads last)

/-- R144: the response poll that reads ready does not deselect: the response is read with one `BusRead(RLEN)`
in the same span; one that reads not ready deselects. -/
def Obligations.ResponseInTheSameSpan : Prop :=
  ∀ (s : State) (b rlen : Byte) (resp bytes : List Byte) (faults : List Bool) (draws : Nat),
    s.resetLine = [] → s.phase = .execResp → s.point = some .c1 → s.rlen = some rlen →
    resp.length = rlen.toNat →
    (s.oracle = ⟨false :: false :: false :: faults, 0xFF :: resp ++ bytes, draws⟩ →
      ∃ t, Host.Core.run Sys2Proof.core 5 s = .next t ∧
        t.trace = s.trace ++ [.sel, .wr [s.params.opReadCmdBuff], .rd 1 [0xFF],
          .rd rlen.toNat resp, .desel] ∧
        t.out = some (0x00 :: resp) ∧ t.phase = .idle) ∧
    (b ≠ 0xFF → s.oracle = ⟨false :: false :: faults, b :: bytes, draws⟩ →
      ∃ t, Host.Core.run Sys2Proof.core 4 s = .next t ∧
        t.trace = s.trace ++ [.sel, .wr [s.params.opReadCmdBuff], .rd 1 [b], .desel] ∧
        (pollsAllowed s.params (s.polls + 2) → t.phase = .execResp ∧ t.point = some .c7) ∧
        (¬ pollsAllowed s.params (s.polls + 2) → t.phase = .idle ∧ t.out = some [0x03]))

/-- R145: an `EXEC` against a chip whose answers are known: it completes, its response is the chip's bytes in
their order, and its bus events are exactly the pseudocode's, one a step. -/
def Obligations.ExecCompletes : Prop :=
  ∀ (s : State) (cmd rlen : Byte) (args pre post resp moreBytes : List Byte)
    (moreFaults : List Bool),
    s.resetLine = [] → allNotReady pre → allNotReady post → resp.length = rlen.toNat →
    pollsAllowed s.params (pre.length + 1) → pollsAllowed s.params (post.length + 1) →
    (rlen ≠ 0 → s.oracle.bytes = pre ++ 0xFF :: post ++ 0xFF :: resp ++ moreBytes →
      s.oracle.faults =
        List.replicate (2 * pre.length + 2 * post.length + 6) false ++ moreFaults →
      ∃ s1 t, Sys2Proof.Machine.exec (.exec cmd args rlen) s = .next s1 ∧
        Host.Core.run Sys2Proof.core (5 * (pre.length + 1) + 5 * (post.length + 1) + 2) s1 =
          .next t ∧
        t = { s with
          phase := .idle, point := none, polls := 0, cs := false, cts := none, cmd := none
          args := none, rlen := none, resp := none, out := some (0x00 :: resp)
          oracle := ⟨moreFaults, moreBytes, s.oracle.draws⟩
          trace := s.trace ++ (waitEvents s.params.opReadCmdBuff pre ++ commandEvents cmd args ++
            pollsThatSleep s.params.opReadCmdBuff post ++
            responseEvents s.params.opReadCmdBuff resp) }) ∧
    (rlen = 0 → s.oracle.bytes = pre ++ 0xFF :: moreBytes →
      s.oracle.faults = List.replicate (2 * pre.length + 3) false ++ moreFaults →
      ∃ s1 t, Sys2Proof.Machine.exec (.exec cmd args rlen) s = .next s1 ∧
        Host.Core.run Sys2Proof.core (5 * (pre.length + 1) + 2) s1 = .next t ∧
        t = { s with
          phase := .idle, point := none, polls := 0, cs := false, cts := none, cmd := none
          args := none, rlen := none, resp := none, out := some [0x00]
          oracle := ⟨moreFaults, moreBytes, s.oracle.draws⟩
          trace := s.trace ++ (waitEvents s.params.opReadCmdBuff pre ++ commandEvents cmd args) })

/-- R150: whatever the chip and the transport do, a successful `EXEC` has a trace of `5a + 2` events without a
response and `5a + 5c + 2` with one, `a` and `c` the polls of its two waits, and the events are
those of R142 to R145. The `EXEC` is followed to the first state in which its response stands. -/
def Obligations.SuccessfulExecTrace : Prop :=
  ∀ (s s1 t : State) (cmd rlen : Byte) (args : List Byte) (k : Nat) (result : List Byte),
    s.out = none → s.resetLine = [] →
    Sys2Proof.Machine.exec (.exec cmd args rlen) s = .next s1 →
    Host.Core.run Sys2Proof.core k s1 = .next t →
    t.phase = .idle → t.delivered = s.delivered → t.out = some (0x00 :: result) →
    ∃ pre, allNotReady pre ∧
      ((rlen = 0 ∧ result = [] ∧
        t.trace = s.trace ++
          (waitEvents s.params.opReadCmdBuff pre ++ commandEvents cmd args) ∧
        t.trace.length = s.trace.length + 5 * (pre.length + 1) + 2) ∨
      (rlen ≠ 0 ∧ result.length = rlen.toNat ∧ ∃ post, allNotReady post ∧
        t.trace = s.trace ++
          (waitEvents s.params.opReadCmdBuff pre ++ commandEvents cmd args ++
            pollsThatSleep s.params.opReadCmdBuff post ++
            responseEvents s.params.opReadCmdBuff result) ∧
        t.trace.length = s.trace.length + 5 * (pre.length + 1) + 5 * (post.length + 1) + 2))

/-- R170, R148: whatever the chip and the transport do, `DEVICE_NOT_RESPONDING` means that `CTS_MAX_POLLS`
polls of one wait all read not ready: either before the command, which was then never written, or
after the command was fully written, before its response. -/
def Obligations.NotRespondingTrace : Prop :=
  ∀ (s s1 t : State) (cmd rlen : Byte) (args : List Byte) (k : Nat),
    s.out = none → s.resetLine = [] →
    Sys2Proof.Machine.exec (.exec cmd args rlen) s = .next s1 →
    Host.Core.run Sys2Proof.core k s1 = .next t →
    t.phase = .idle → t.delivered = s.delivered → t.out = some [0x03] →
    ∃ (most : PNat) (reads : List Byte) (last : Byte),
      s.params.ctsMaxPolls = .bounded most ∧ allNotReady reads ∧ last ≠ 0xFF ∧
      reads.length + 1 = (most : Nat) ∧
      (t.trace = s.trace ++ failedWaitEvents s.params.opReadCmdBuff reads last ∨
        (rlen ≠ 0 ∧ ∃ pre, allNotReady pre ∧
          t.trace = s.trace ++ (waitEvents s.params.opReadCmdBuff pre ++ commandEvents cmd args ++
            failedWaitEvents s.params.opReadCmdBuff reads last)))

/-- R147: a `BusWrite` or a `BusRead` that fails ends the `EXEC` at once: its error event, a `Desel`, the response
`[0x04]`, and nothing of the request left (all in the step of the failed call: log entry 4). -/
def Obligations.BusErrorEndsExec : Prop :=
  ∀ (s : State) (p : Point), s.Inv → resetReleased s → BusyShape s p →
    p ∈ [.a2, .a3, .b2, .c2, .c3, .c4] → (drawFault s.oracle).1 = true →
    ∃ t e, step s = .next t ∧ t.trace = s.trace ++ [e, .desel] ∧
      (p = .a2 ∨ p = .c2 → e = .wrErr [s.params.opReadCmdBuff]) ∧
      (p = .a3 ∨ p = .c3 → e = .rdErr 1) ∧
      (p = .b2 → ∃ cmd args, s.cmd = some cmd ∧ s.args = some args ∧ e = .wrErr (cmd :: args)) ∧
      (p = .c4 → ∃ rlen, s.rlen = some rlen ∧ e = .rdErr rlen.toNat) ∧
      t.out = some [0x04] ∧ t.phase = .idle ∧ IdleShape t ∧ t.requests = s.requests ∧
      t.delivered = s.delivered

/-- R149: with `CTS_MAX_POLLS = unbounded`, a chip that reads not ready keeps the block in its wait, however
long: after any number of steps that the not-ready bytes cover, there is no response. -/
def Obligations.UnboundedWaitGoesOn : Prop :=
  ∀ (s : State) (reads : List Byte) (k : Nat),
    s.params.ctsMaxPolls = .unbounded → s.resetLine = [] → s.out = none → allNotReady reads →
    s.oracle.bytes = reads → s.oracle.faults = List.replicate (2 * reads.length) false →
    k ≤ 5 * reads.length →
    (s.phase = .execPre → s.point = some .a1 →
      ∃ t, Host.Core.run Sys2Proof.core k s = .next t ∧ t.phase = .execPre ∧ t.out = none) ∧
    (s.phase = .execResp → s.point = some .c1 →
      ∃ t, Host.Core.run Sys2Proof.core k s = .next t ∧ t.phase = .execResp ∧ t.out = none)

/-- R151: the source's end-to-end example: three polls, two sleeps, the command, and the response `[0x00]`,
17 events. -/
def Obligations.ThreePollExample : Prop :=
  ∀ (s s1 : State) (moreBytes : List Byte) (moreFaults : List Bool) (rcb : Byte),
    s.resetLine = [] → s.trace = [] → s.params.opReadCmdBuff = rcb → pollsAllowed s.params 3 →
    s.oracle.bytes = 0x00 :: 0x00 :: 0xFF :: moreBytes →
    s.oracle.faults = List.replicate 7 false ++ moreFaults →
    Sys2Proof.Machine.exec (.exec 0x01 [] 0) s = .next s1 →
    ∃ t, Host.Core.run Sys2Proof.core 17 s1 = .next t ∧ t.out = some [0x00] ∧
      t.trace = [.sel, .wr [rcb], .rd 1 [0x00], .desel, .slp 20,
        .sel, .wr [rcb], .rd 1 [0x00], .desel, .slp 20,
        .sel, .wr [rcb], .rd 1 [0xFF], .desel, .sel, .wr [0x01], .desel]

/-! ### Errors (60_exceptions.md) -/

/-- R172: what an abort leaves: chip select released with a `Desel` if it was asserted, every latch cleared, the
one-byte error response, `IDLE`; nothing else is saved or changed. -/
def Obligations.AbortRecord : Prop :=
  ∀ (e : BlockError) (s : State),
    IdleShape (abort e s) ∧ (abort e s).phase = .idle ∧
    (abort e s).out = some [match e with
      | .outOfRange => 0x01
      | .internalInvariant => 0x02
      | .deviceNotResponding => 0x03
      | .busError => 0x04
      | .illegalRequest => 0x05] ∧
    (abort e s).trace = (if s.cs then s.trace ++ [.desel] else s.trace) ∧
    (abort e s).params = s.params ∧ (abort e s).requests = s.requests ∧
    (abort e s).oracle = s.oracle ∧ (abort e s).delivered = s.delivered ∧
    (abort e s).resetLine = s.resetLine

/-- R171, R175: an error is not sticky: what was answered and what went over the bus before has no part in any
later step. Two states that differ only in their history make the same steps. -/
def Obligations.HistoryHasNoEffect : Prop :=
  ∀ (s : State) (trace : List BusEvent) (delivered : List Frame),
    step { s with trace := trace ++ s.trace, delivered := delivered ++ s.delivered } =
      match step s with
      | .next t =>
        .next { t with trace := trace ++ t.trace, delivered := delivered ++ t.delivered }
      | .fault r => .fault r
      | .refused r => .refused r

/-- R171: after an error response the block accepts the next request as it does after reset: an idle block
that meets the invariants, its response taken, is the block after reset. -/
def Obligations.IdleIsAsAfterReset : Prop :=
  ∀ s : State, s.Inv → s.phase = .idle → s.out = none → sameRecord s State.reset

/-! ### Reset, and the invariants (10_state.md, 70_reset_and_hazards.md) -/

/-- R31: the state after reset, and the fixed parameters of R6. -/
def Obligations.ResetState : Prop :=
  State.reset.phase = .idle ∧ State.reset.point = none ∧ State.reset.polls = 0 ∧
  State.reset.cs = false ∧ State.reset.cts = none ∧ State.reset.cmd = none ∧
  State.reset.args = none ∧ State.reset.rlen = none ∧ State.reset.resp = none ∧
  State.reset.out = none ∧
  State.reset.params =
    ⟨Config.crcTable, Config.ctsMaxPolls, Config.opReadCmdBuff, Config.timeUnit⟩ ∧
  Config.crcInit = 0xFF ∧ Config.crcPoly = 0x8D ∧ Config.pktLen = 7 ∧
  Config.chMin = 1 ∧ Config.chMax = 10111 ∧ Config.chSplit = 8862 ∧
  Config.fcHiMul = 2 ∧ Config.fcHiAdd = 10658 ∧ Config.fcLoAdd = 19520 ∧
  Config.fBase = 43 ∧ Config.fDiv = 64000 ∧ Config.fMul = 10 ∧ Config.hzPerMhz = 1000000 ∧
  Config.xtalHz = 30000000 ∧ Config.pllOutdiv = 8 ∧ Config.fracScale = 2 ^ 19 ∧
  Config.ctsReady = 0xFF ∧ Config.pollInterval = 20 ∧
  Config.maxCrcLen = 255 ∧ Config.maxNargs = 255 ∧ Config.maxRlen = 255

/-- R32: a request in progress when reset is asserted is abandoned: no response, chip select driven false, the
record at its reset values. What was written to the chip stays written. That the waiting requests and the
responses already taken stand over reset is the model's choice (log entry 5). -/
def Obligations.ResetAbandonsRequest : Prop :=
  ∀ (s : State) (rest : List Bool), s.resetLine = true :: rest →
    ∃ t, step s = .next t ∧ sameRecord t State.reset ∧ t.params = s.params ∧
      s.trace <+: t.trace ∧ t.delivered = s.delivered ∧ t.requests = s.requests

/-- R201: the parameters do not change, however long the block runs. -/
def Obligations.ParametersNeverChange : Prop :=
  ∀ (k : Nat) (s t : State), Host.Core.run Sys2Proof.core k s = .next t → t.params = s.params

/-- The state after reset meets the invariants of R30 and the discipline of R27. -/
def Obligations.ResetMeetsInvariants : Prop := State.reset.Inv

/-- R30: every step keeps the invariants. That the trace stays made of whole spans over a reset inside one rests
on reset recording its `Desel`, the model's choice (log entry 5). -/
def Obligations.StepKeepsInvariants : Prop :=
  ∀ s t : State, s.Inv → step s = .next t → t.Inv

/-- R27: no step from a state that meets the invariants stops: no field is read that holds no value, and no
request is refused. With the step keeping them, no run from such a state stops. -/
def Obligations.NoRunStops : Prop :=
  ∀ s : State, s.Inv → safe s

/-- R212: with a finite bound `M`, every `EXEC` ends within `10M + 2` bus primitives, whatever the chip and the
transport do (the primitives return: log entry 14; a step is one primitive or a failed one with its
abort: log entry 4). -/
def Obligations.ExecTerminates : Prop :=
  ∀ (s s1 : State) (cmd rlen : Byte) (args : List Byte) (most : PNat),
    s.Inv → s.phase = .idle → s.out = none → s.resetLine = [] → args.length ≤ 255 →
    s.params.ctsMaxPolls = .bounded most →
    Sys2Proof.Machine.exec (.exec cmd args rlen) s = .next s1 →
    ∃ (k : Nat) (t : State), k ≤ 10 * (most : Nat) + 2 ∧ Host.Core.run Sys2Proof.core k s1 = .next t ∧
      t.phase = .idle ∧ t.out ≠ none ∧ t.delivered = s.delivered ∧
      t.trace.length ≤ s.trace.length + (10 * (most : Nat) + 2)
end

