-- ==== Sys2Proof/Laws/Decode.lean ====
section
/-! SUPPORT. The small lemmas of the byte layouts and of the operation codes. -/

namespace Sys2Proof

open Machine

@[simp] theorem opcodeOf_opcodeByte (o : Opcode) : opcodeOf (opcodeByte o) = some o := by
  cases o <;> rfl

/-- A byte that reads as an operation is that operation's byte. -/
theorem opcodeByte_of_opcodeOf {b : Byte} {o : Opcode} (h : opcodeOf b = some o) :
    opcodeByte o = b := by
  unfold opcodeOf at h
  split at h
  · cases h; simp_all [opcodeByte]
  split at h
  · cases h; simp_all [opcodeByte]
  split at h
  · cases h; simp_all [opcodeByte]
  split at h
  · cases h; simp_all [opcodeByte]
  split at h
  · cases h; simp_all [opcodeByte]
  split at h
  · cases h; simp_all [opcodeByte]
  split at h
  · cases h; simp_all [opcodeByte]
  · cases h

/-- A 16-bit field's value is `hi·2^8 + lo` (R64). -/
theorem ofBe16_toNat (hi lo : Byte) : (ofBe16 hi lo).toNat = hi.toNat * 2 ^ 8 + lo.toNat := by
  simp only [ofBe16, BitVec.toNat_append]
  rw [← Nat.shiftLeft_add_eq_or_of_lt lo.isLt, Nat.shiftLeft_eq]

/-- A 32-bit field's value (R64). -/
theorem ofBe32_toNat (b3 b2 b1 b0 : Byte) :
    (ofBe32 b3 b2 b1 b0).toNat =
      b3.toNat * 2 ^ 24 + b2.toNat * 2 ^ 16 + b1.toNat * 2 ^ 8 + b0.toNat := by
  simp only [ofBe32, BitVec.toNat_append]
  rw [← Nat.shiftLeft_add_eq_or_of_lt b2.isLt, ← Nat.shiftLeft_add_eq_or_of_lt b1.isLt,
    ← Nat.shiftLeft_add_eq_or_of_lt b0.isLt]
  simp only [Nat.shiftLeft_eq]
  omega

/-- Splitting what was assembled. -/
theorem be16_ofBe16 (hi lo : Byte) : be16 (ofBe16 hi lo) = [hi, lo] := by
  have := hi.isLt
  have := lo.isLt
  have h1 : (ofBe16 hi lo).extractLsb' 8 8 = hi := by
    apply BitVec.eq_of_toNat_eq
    simp only [BitVec.extractLsb'_toNat, ofBe16_toNat, Nat.shiftRight_eq_div_pow]
    omega
  have h0 : (ofBe16 hi lo).extractLsb' 0 8 = lo := by
    apply BitVec.eq_of_toNat_eq
    simp only [BitVec.extractLsb'_toNat, ofBe16_toNat, Nat.shiftRight_eq_div_pow]
    omega
  simp [be16, h1, h0]

/-- Assembling what was split. -/
theorem ofBe16_split (v : Half) : ofBe16 (v.extractLsb' 8 8) (v.extractLsb' 0 8) = v := by
  apply BitVec.eq_of_toNat_eq
  have := v.isLt
  simp only [ofBe16_toNat, BitVec.extractLsb'_toNat, Nat.shiftRight_eq_div_pow]
  omega

/-- The bytes of a 32-bit field have the values R8 gives. -/
theorem be32_toNat (v : Word) : (be32 v).map BitVec.toNat =
    [v.toNat / 2 ^ 24, v.toNat / 2 ^ 16 % 2 ^ 8, v.toNat / 2 ^ 8 % 2 ^ 8, v.toNat % 2 ^ 8] := by
  have := v.isLt
  simp [be32, BitVec.extractLsb'_toNat, Nat.shiftRight_eq_div_pow]
  omega

/-- Assembling what was split. -/
theorem ofBe32_split (v : Word) :
    ofBe32 (v.extractLsb' 24 8) (v.extractLsb' 16 8) (v.extractLsb' 8 8) (v.extractLsb' 0 8) = v := by
  apply BitVec.eq_of_toNat_eq
  have := v.isLt
  simp only [ofBe32_toNat, BitVec.extractLsb'_toNat, Nat.shiftRight_eq_div_pow]
  omega

@[simp] theorem be16_length (v : Half) : (be16 v).length = 2 := rfl
@[simp] theorem be24_length (v : Word) : (be24 v).length = 3 := rfl
@[simp] theorem be32_length (v : Word) : (be32 v).length = 4 := rfl
@[simp] theorem be64_length (v : BitVec 64) : (be64 v).length = 8 := rfl

/-- A required length is read only from a frame with a listed opcode and its length byte (R63). -/
theorem requiredLength_cons (o : Opcode) (rest : List Byte) :
    requiredLength (opcodeByte o :: rest) =
      match o, rest with
      | .crc, len :: _ => .ok (2 + len.toNat)
      | .crc, [] => .error .noLengthByte
      | .pktBuild, _ => .ok 7
      | .pktCheck, _ => .ok 8
      | .pllFreq, _ => .ok 3
      | .pllParams, _ => .ok 3
      | .pllRegs, _ => .ok 3
      | .exec, _ :: nargs :: _ => .ok (4 + nargs.toNat)
      | .exec, _ => .error .noLengthByte := by
  cases o <;> rcases rest with _ | ⟨_, _ | ⟨_, _⟩⟩ <;> rfl

end Sys2Proof
end

