-- ==== Sys2Proof/Laws/Crc.lean ====
section
/-! SUPPORT. The small lemmas of the CRC unit. -/

namespace Sys2Proof.Machine

@[simp] theorem crc8_nil (table : CrcTable) : crc8 table [] = 0xFF := rfl

/-- The last byte is one lookup more (R101). -/
theorem crc8_snoc (table : CrcTable) (bs : List Byte) (b : Byte) :
    crc8 table (bs ++ [b]) = crcLookup table (crc8 table bs ^^^ b) := by
  simp [crc8, crcStep]

/-- The entries of a generated table. -/
@[simp] theorem crcLookup_crcTableOf (entry : Byte → Byte) (b : Byte) :
    crcLookup (crcTableOf entry) b = entry b := by
  simp [crcLookup, crcTableOf]

@[simp] theorem packetHeader_length (opcode : Word) (channel : Half) :
    (packetHeader opcode channel).length = 6 := rfl

@[simp] theorem buildPacket_length (table : CrcTable) (opcode : Word) (channel : Half) :
    (buildPacket table opcode channel).length = 7 := rfl

/-- A built packet's first six bytes are its header (R105). -/
@[simp] theorem buildPacket_take (table : CrcTable) (opcode : Word) (channel : Half) :
    (buildPacket table opcode channel).take 6 = packetHeader opcode channel := rfl

/-- A packet is its first six bytes and its CRC byte. -/
theorem packet_split (packet : Vector Byte 7) :
    packet.toList = packet.toList.take 6 ++ [packet[6]] := by
  apply List.ext_getElem
  · simp
  · intro i h1 h2
    have hi : i < 7 := by simpa using h1
    rcases Nat.lt_or_ge i 6 with h | h
    · simp [h]
    · have : i = 6 := by omega
      subst this
      simp

/-- A packet is valid exactly when its last byte is the CRC of the others (R107). -/
theorem packetValid_iff (table : CrcTable) (packet : Vector Byte 7) :
    packetValid table packet = true ↔ crc8 table (packet.toList.take 6) = packet[6] := by
  simp [packetValid]

end Sys2Proof.Machine
end

