-- ==== Sys2Proof/Laws/Float64.lean ====
section
/-! SUPPORT. The binary64 rounding, said once: its error is at most half a unit in the last place, and a
representable number is left as it is. -/

namespace Sys2Proof.Machine

theorem pow2_eq_zpow (e : Int) : pow2 e = (2 : Rat) ^ e := by
  cases e with
  | ofNat n => simp [pow2]
  | negSucc n => simp [pow2, Rat.mkRat_eq_div, zpow_negSucc]

theorem pow2_pos (e : Int) : 0 < pow2 e := by
  rw [pow2_eq_zpow]; positivity

theorem pow2_add (a b : Int) : pow2 (a + b) = pow2 a * pow2 b := by
  simp only [pow2_eq_zpow]
  exact zpow_add₀ (by norm_num) a b

theorem pow2_le_pow2 {a b : Int} (h : a ≤ b) : pow2 a ≤ pow2 b := by
  simp only [pow2_eq_zpow]
  exact zpow_le_zpow_right₀ (by norm_num) h

/-- `binade` is the exponent of `v`. -/
theorem binade_spec {v : Rat} (hv : v ≠ 0) :
    pow2 (binade v) ≤ |v| ∧ |v| < pow2 (binade v + 1) := by
  have hn : v.num.natAbs ≠ 0 := by simpa using hv
  have habs : |v| = (v.num.natAbs : Rat) / (v.den : Rat) := by
    conv_lhs => rw [← Rat.num_div_den v]
    rw [abs_div, Nat.abs_cast, Nat.cast_natAbs, Int.cast_abs]
  have hd0 : (0 : Rat) < v.den := by exact_mod_cast v.den_pos
  have n1 : (2 : Rat) ^ v.num.natAbs.log2 ≤ v.num.natAbs := by
    exact_mod_cast Nat.log2_self_le hn
  have n2 : (v.num.natAbs : Rat) < 2 ^ (v.num.natAbs.log2 + 1) := by
    exact_mod_cast Nat.lt_log2_self (n := v.num.natAbs)
  have d1 : (2 : Rat) ^ v.den.log2 ≤ v.den := by
    exact_mod_cast Nat.log2_self_le v.den_nz
  have d2 : (v.den : Rat) < 2 ^ (v.den.log2 + 1) := by
    exact_mod_cast Nat.lt_log2_self (n := v.den)
  have up : |v| < pow2 ((v.num.natAbs.log2 : Int) - v.den.log2 + 1) := by
    rw [pow2_eq_zpow, habs, div_lt_iff₀ hd0]
    calc (v.num.natAbs : Rat) < 2 ^ (v.num.natAbs.log2 + 1) := n2
      _ = 2 ^ ((v.num.natAbs.log2 : Int) - v.den.log2 + 1) * 2 ^ v.den.log2 := by
        rw [← zpow_natCast, ← zpow_natCast, ← zpow_add₀ (by norm_num)]
        congr 1; push_cast; ring
      _ ≤ _ := by gcongr
  have lo : pow2 ((v.num.natAbs.log2 : Int) - v.den.log2 - 1) ≤ |v| := by
    rw [pow2_eq_zpow, habs, le_div_iff₀ hd0]
    calc (2 : Rat) ^ ((v.num.natAbs.log2 : Int) - v.den.log2 - 1) * v.den
        ≤ 2 ^ ((v.num.natAbs.log2 : Int) - v.den.log2 - 1) * 2 ^ (v.den.log2 + 1) := by gcongr
      _ = 2 ^ v.num.natAbs.log2 := by
        rw [← zpow_natCast, ← zpow_natCast, ← zpow_add₀ (by norm_num)]
        congr 1; push_cast; ring
      _ ≤ _ := n1
  unfold binade
  dsimp only
  split
  · rename_i h; exact ⟨h, up⟩
  · rename_i h
    refine ⟨lo, ?_⟩
    rw [sub_add_cancel]
    exact lt_of_not_ge h

/-- Rounding to an integer moves by at most a half. -/
theorem tiesToEven_error (q : Rat) : |(tiesToEven q : Rat) - q| ≤ 1 / 2 := by
  have h1 : (q.floor : Rat) ≤ q := Int.floor_le q
  have h2 : q < (q.floor : Rat) + 1 := Int.lt_floor_add_one q
  unfold tiesToEven
  dsimp only
  split
  · rw [abs_le]; constructor <;> linarith
  split
  · rw [abs_le]; push_cast; constructor <;> linarith
  split
  · rw [abs_le]; constructor <;> linarith
  · rw [abs_le]; push_cast; constructor <;> linarith

/-- An integer is its own rounding. -/
theorem tiesToEven_intCast (n : Int) : tiesToEven (n : Rat) = n := by
  simp [tiesToEven]

/-- The error of a rounding is at most half a unit in the last place. -/
theorem roundEven_error (v : Rat) : |roundEven v - v| ≤ pow2 (ulpExp v) / 2 := by
  have hp := pow2_pos (ulpExp v)
  have h := tiesToEven_error (v / pow2 (ulpExp v))
  have : roundEven v - v =
      ((tiesToEven (v / pow2 (ulpExp v)) : Rat) - v / pow2 (ulpExp v)) * pow2 (ulpExp v) := by
    unfold roundEven
    field_simp
  rw [this, abs_mul, abs_of_pos hp]
  calc _ ≤ 1 / 2 * pow2 (ulpExp v) := by gcongr
    _ = _ := by ring

/-- The unit in the last place of a number in a known binade that is not subnormal. -/
theorem ulpExp_of_binade {v : Rat} {k : Int} (hk : -1022 ≤ k) (lo : pow2 k ≤ |v|)
    (hi : |v| < pow2 (k + 1)) : ulpExp v = k - 52 := by
  have hv : v ≠ 0 := by
    intro h; rw [h, abs_zero] at lo; exact absurd lo (not_le.mpr (pow2_pos k))
  obtain ⟨b1, b2⟩ := binade_spec hv
  have e1 : binade v ≤ k := by
    by_contra h
    have := pow2_le_pow2 (show k + 1 ≤ binade v by omega)
    linarith
  have e2 : k ≤ binade v := by
    by_contra h
    have := pow2_le_pow2 (show binade v + 1 ≤ k by omega)
    linarith
  unfold ulpExp
  split <;> omega

/-- A whole multiple of the unit in the last place is left as it is. -/
theorem roundEven_of_multiple {v : Rat} (m : Int) (h : v = (m : Rat) * pow2 (ulpExp v)) :
    roundEven v = v := by
  have hp := (pow2_pos (ulpExp v)).ne'
  have : v / pow2 (ulpExp v) = (m : Rat) := by
    rw [div_eq_iff hp]; exact h
  rw [roundEven, this, tiesToEven_intCast, ← h]

/-- A representable number is its own rounding. -/
theorem roundEven_of_representable {v : Rat} (h : representable v) : roundEven v = v := by
  obtain ⟨m, e, hm, he, rfl⟩ := h
  rcases eq_or_ne m 0 with rfl | hm0
  · exact roundEven_of_multiple 0 (by simp)
  have hv : (m : Rat) * (2 : Rat) ^ e ≠ 0 := by
    have : (m : Rat) ≠ 0 := by exact_mod_cast hm0
    positivity
  obtain ⟨b1, -⟩ := binade_spec hv
  have hlt : |(m : Rat) * (2 : Rat) ^ e| < pow2 (53 + e) := by
    rw [pow2_add, ← pow2_eq_zpow e, abs_mul, abs_of_pos (pow2_pos e)]
    have : |(m : Rat)| < pow2 53 := by
      rw [pow2_eq_zpow, ← Int.cast_abs, Int.abs_eq_natAbs]
      exact_mod_cast hm
    have := pow2_pos e
    gcongr
  have hb : binade ((m : Rat) * (2 : Rat) ^ e) < 53 + e := by
    by_contra h
    have := pow2_le_pow2 (not_lt.mp h)
    linarith
  have hu : ulpExp ((m : Rat) * (2 : Rat) ^ e) ≤ e := by
    unfold ulpExp; split <;> omega
  generalize hw : ulpExp ((m : Rat) * (2 : Rat) ^ e) = u at hu
  obtain ⟨n, hn⟩ := Int.le.dest hu
  refine roundEven_of_multiple (m * 2 ^ n) ?_
  rw [hw, pow2_eq_zpow, ← hn, zpow_add₀ (by norm_num)]
  push_cast
  rw [zpow_natCast]
  ring

/-- Natural numbers up to 53 bits convert exactly (R121). -/
theorem f64OfNat_exact {n : Nat} (h : n < 2 ^ 53) : f64OfNat n = n :=
  roundEven_of_representable ⟨n, 0, by simpa using h, by norm_num, by simp⟩

end Sys2Proof.Machine
end

