-- ==== Sys2Proof/Laws/State.lean ====
section
/-! SUPPORT. One lemma for each field of State after each shared update, true by definition, so that no
later proof unfolds a record update. -/

namespace Sys2Proof.Machine

/-! ### record -/

@[simp] theorem record_params (e : BusEvent) (s : State) : (record e s).params = s.params := rfl
@[simp] theorem record_phase (e : BusEvent) (s : State) : (record e s).phase = s.phase := rfl
@[simp] theorem record_point (e : BusEvent) (s : State) : (record e s).point = s.point := rfl
@[simp] theorem record_polls (e : BusEvent) (s : State) : (record e s).polls = s.polls := rfl
@[simp] theorem record_cs (e : BusEvent) (s : State) : (record e s).cs = s.cs := rfl
@[simp] theorem record_cts (e : BusEvent) (s : State) : (record e s).cts = s.cts := rfl
@[simp] theorem record_cmd (e : BusEvent) (s : State) : (record e s).cmd = s.cmd := rfl
@[simp] theorem record_args (e : BusEvent) (s : State) : (record e s).args = s.args := rfl
@[simp] theorem record_rlen (e : BusEvent) (s : State) : (record e s).rlen = s.rlen := rfl
@[simp] theorem record_resp (e : BusEvent) (s : State) : (record e s).resp = s.resp := rfl
@[simp] theorem record_out (e : BusEvent) (s : State) : (record e s).out = s.out := rfl
@[simp] theorem record_requests (e : BusEvent) (s : State) : (record e s).requests = s.requests := rfl
@[simp] theorem record_resetLine (e : BusEvent) (s : State) : (record e s).resetLine = s.resetLine := rfl
@[simp] theorem record_oracle (e : BusEvent) (s : State) : (record e s).oracle = s.oracle := rfl
@[simp] theorem record_trace (e : BusEvent) (s : State) : (record e s).trace = s.trace ++ [e] := rfl
@[simp] theorem record_delivered (e : BusEvent) (s : State) : (record e s).delivered = s.delivered := rfl

/-! ### busSelect -/

@[simp] theorem busSelect_params (s : State) : (busSelect s).params = s.params := rfl
@[simp] theorem busSelect_phase (s : State) : (busSelect s).phase = s.phase := rfl
@[simp] theorem busSelect_point (s : State) : (busSelect s).point = s.point := rfl
@[simp] theorem busSelect_polls (s : State) : (busSelect s).polls = s.polls := rfl
@[simp] theorem busSelect_cs (s : State) : (busSelect s).cs = true := rfl
@[simp] theorem busSelect_cts (s : State) : (busSelect s).cts = s.cts := rfl
@[simp] theorem busSelect_cmd (s : State) : (busSelect s).cmd = s.cmd := rfl
@[simp] theorem busSelect_args (s : State) : (busSelect s).args = s.args := rfl
@[simp] theorem busSelect_rlen (s : State) : (busSelect s).rlen = s.rlen := rfl
@[simp] theorem busSelect_resp (s : State) : (busSelect s).resp = s.resp := rfl
@[simp] theorem busSelect_out (s : State) : (busSelect s).out = s.out := rfl
@[simp] theorem busSelect_requests (s : State) : (busSelect s).requests = s.requests := rfl
@[simp] theorem busSelect_resetLine (s : State) : (busSelect s).resetLine = s.resetLine := rfl
@[simp] theorem busSelect_oracle (s : State) : (busSelect s).oracle = s.oracle := rfl
@[simp] theorem busSelect_trace (s : State) : (busSelect s).trace = s.trace ++ [.sel] := rfl
@[simp] theorem busSelect_delivered (s : State) : (busSelect s).delivered = s.delivered := rfl

/-! ### busDeselect -/

@[simp] theorem busDeselect_params (s : State) : (busDeselect s).params = s.params := rfl
@[simp] theorem busDeselect_phase (s : State) : (busDeselect s).phase = s.phase := rfl
@[simp] theorem busDeselect_point (s : State) : (busDeselect s).point = s.point := rfl
@[simp] theorem busDeselect_polls (s : State) : (busDeselect s).polls = s.polls := rfl
@[simp] theorem busDeselect_cs (s : State) : (busDeselect s).cs = false := rfl
@[simp] theorem busDeselect_cts (s : State) : (busDeselect s).cts = s.cts := rfl
@[simp] theorem busDeselect_cmd (s : State) : (busDeselect s).cmd = s.cmd := rfl
@[simp] theorem busDeselect_args (s : State) : (busDeselect s).args = s.args := rfl
@[simp] theorem busDeselect_rlen (s : State) : (busDeselect s).rlen = s.rlen := rfl
@[simp] theorem busDeselect_resp (s : State) : (busDeselect s).resp = s.resp := rfl
@[simp] theorem busDeselect_out (s : State) : (busDeselect s).out = s.out := rfl
@[simp] theorem busDeselect_requests (s : State) : (busDeselect s).requests = s.requests := rfl
@[simp] theorem busDeselect_resetLine (s : State) : (busDeselect s).resetLine = s.resetLine := rfl
@[simp] theorem busDeselect_oracle (s : State) : (busDeselect s).oracle = s.oracle := rfl
@[simp] theorem busDeselect_trace (s : State) : (busDeselect s).trace = s.trace ++ [.desel] := rfl
@[simp] theorem busDeselect_delivered (s : State) : (busDeselect s).delivered = s.delivered := rfl

/-! ### busSleep -/

@[simp] theorem busSleep_params (t : Nat) (s : State) : (busSleep t s).params = s.params := rfl
@[simp] theorem busSleep_phase (t : Nat) (s : State) : (busSleep t s).phase = s.phase := rfl
@[simp] theorem busSleep_point (t : Nat) (s : State) : (busSleep t s).point = s.point := rfl
@[simp] theorem busSleep_polls (t : Nat) (s : State) : (busSleep t s).polls = s.polls := rfl
@[simp] theorem busSleep_cs (t : Nat) (s : State) : (busSleep t s).cs = s.cs := rfl
@[simp] theorem busSleep_cts (t : Nat) (s : State) : (busSleep t s).cts = s.cts := rfl
@[simp] theorem busSleep_cmd (t : Nat) (s : State) : (busSleep t s).cmd = s.cmd := rfl
@[simp] theorem busSleep_args (t : Nat) (s : State) : (busSleep t s).args = s.args := rfl
@[simp] theorem busSleep_rlen (t : Nat) (s : State) : (busSleep t s).rlen = s.rlen := rfl
@[simp] theorem busSleep_resp (t : Nat) (s : State) : (busSleep t s).resp = s.resp := rfl
@[simp] theorem busSleep_out (t : Nat) (s : State) : (busSleep t s).out = s.out := rfl
@[simp] theorem busSleep_requests (t : Nat) (s : State) : (busSleep t s).requests = s.requests := rfl
@[simp] theorem busSleep_resetLine (t : Nat) (s : State) : (busSleep t s).resetLine = s.resetLine := rfl
@[simp] theorem busSleep_oracle (t : Nat) (s : State) : (busSleep t s).oracle = s.oracle := rfl
@[simp] theorem busSleep_trace (t : Nat) (s : State) : (busSleep t s).trace = s.trace ++ [.slp t] := rfl
@[simp] theorem busSleep_delivered (t : Nat) (s : State) : (busSleep t s).delivered = s.delivered := rfl

/-! ### respond -/

@[simp] theorem respond_params (frame : Frame) (s : State) : (respond frame s).params = s.params := rfl
@[simp] theorem respond_phase (frame : Frame) (s : State) : (respond frame s).phase = s.phase := rfl
@[simp] theorem respond_point (frame : Frame) (s : State) : (respond frame s).point = s.point := rfl
@[simp] theorem respond_polls (frame : Frame) (s : State) : (respond frame s).polls = s.polls := rfl
@[simp] theorem respond_cs (frame : Frame) (s : State) : (respond frame s).cs = s.cs := rfl
@[simp] theorem respond_cts (frame : Frame) (s : State) : (respond frame s).cts = s.cts := rfl
@[simp] theorem respond_cmd (frame : Frame) (s : State) : (respond frame s).cmd = s.cmd := rfl
@[simp] theorem respond_args (frame : Frame) (s : State) : (respond frame s).args = s.args := rfl
@[simp] theorem respond_rlen (frame : Frame) (s : State) : (respond frame s).rlen = s.rlen := rfl
@[simp] theorem respond_resp (frame : Frame) (s : State) : (respond frame s).resp = s.resp := rfl
@[simp] theorem respond_out (frame : Frame) (s : State) : (respond frame s).out = some frame := rfl
@[simp] theorem respond_requests (frame : Frame) (s : State) : (respond frame s).requests = s.requests := rfl
@[simp] theorem respond_resetLine (frame : Frame) (s : State) : (respond frame s).resetLine = s.resetLine := rfl
@[simp] theorem respond_oracle (frame : Frame) (s : State) : (respond frame s).oracle = s.oracle := rfl
@[simp] theorem respond_trace (frame : Frame) (s : State) : (respond frame s).trace = s.trace := rfl
@[simp] theorem respond_delivered (frame : Frame) (s : State) : (respond frame s).delivered = s.delivered := rfl

/-! ### clearLatches -/

@[simp] theorem clearLatches_params (s : State) : (clearLatches s).params = s.params := rfl
@[simp] theorem clearLatches_phase (s : State) : (clearLatches s).phase = s.phase := rfl
@[simp] theorem clearLatches_point (s : State) : (clearLatches s).point = none := rfl
@[simp] theorem clearLatches_polls (s : State) : (clearLatches s).polls = 0 := rfl
@[simp] theorem clearLatches_cs (s : State) : (clearLatches s).cs = s.cs := rfl
@[simp] theorem clearLatches_cts (s : State) : (clearLatches s).cts = none := rfl
@[simp] theorem clearLatches_cmd (s : State) : (clearLatches s).cmd = none := rfl
@[simp] theorem clearLatches_args (s : State) : (clearLatches s).args = none := rfl
@[simp] theorem clearLatches_rlen (s : State) : (clearLatches s).rlen = none := rfl
@[simp] theorem clearLatches_resp (s : State) : (clearLatches s).resp = none := rfl
@[simp] theorem clearLatches_out (s : State) : (clearLatches s).out = s.out := rfl
@[simp] theorem clearLatches_requests (s : State) : (clearLatches s).requests = s.requests := rfl
@[simp] theorem clearLatches_resetLine (s : State) : (clearLatches s).resetLine = s.resetLine := rfl
@[simp] theorem clearLatches_oracle (s : State) : (clearLatches s).oracle = s.oracle := rfl
@[simp] theorem clearLatches_trace (s : State) : (clearLatches s).trace = s.trace := rfl
@[simp] theorem clearLatches_delivered (s : State) : (clearLatches s).delivered = s.delivered := rfl

/-! ### finish -/

@[simp] theorem finish_params (frame : Frame) (s : State) : (finish frame s).params = s.params := rfl
@[simp] theorem finish_phase (frame : Frame) (s : State) : (finish frame s).phase = .idle := rfl
@[simp] theorem finish_point (frame : Frame) (s : State) : (finish frame s).point = none := rfl
@[simp] theorem finish_polls (frame : Frame) (s : State) : (finish frame s).polls = 0 := rfl
@[simp] theorem finish_cs (frame : Frame) (s : State) : (finish frame s).cs = s.cs := rfl
@[simp] theorem finish_cts (frame : Frame) (s : State) : (finish frame s).cts = none := rfl
@[simp] theorem finish_cmd (frame : Frame) (s : State) : (finish frame s).cmd = none := rfl
@[simp] theorem finish_args (frame : Frame) (s : State) : (finish frame s).args = none := rfl
@[simp] theorem finish_rlen (frame : Frame) (s : State) : (finish frame s).rlen = none := rfl
@[simp] theorem finish_resp (frame : Frame) (s : State) : (finish frame s).resp = none := rfl
@[simp] theorem finish_out (frame : Frame) (s : State) : (finish frame s).out = some frame := rfl
@[simp] theorem finish_requests (frame : Frame) (s : State) : (finish frame s).requests = s.requests := rfl
@[simp] theorem finish_resetLine (frame : Frame) (s : State) : (finish frame s).resetLine = s.resetLine := rfl
@[simp] theorem finish_oracle (frame : Frame) (s : State) : (finish frame s).oracle = s.oracle := rfl
@[simp] theorem finish_trace (frame : Frame) (s : State) : (finish frame s).trace = s.trace := rfl
@[simp] theorem finish_delivered (frame : Frame) (s : State) : (finish frame s).delivered = s.delivered := rfl

/-! ### goTo -/

@[simp] theorem goTo_params (p : Point) (s : State) : (goTo p s).params = s.params := rfl
@[simp] theorem goTo_phase (p : Point) (s : State) : (goTo p s).phase = s.phase := rfl
@[simp] theorem goTo_point (p : Point) (s : State) : (goTo p s).point = some p := rfl
@[simp] theorem goTo_polls (p : Point) (s : State) : (goTo p s).polls = s.polls := rfl
@[simp] theorem goTo_cs (p : Point) (s : State) : (goTo p s).cs = s.cs := rfl
@[simp] theorem goTo_cts (p : Point) (s : State) : (goTo p s).cts = s.cts := rfl
@[simp] theorem goTo_cmd (p : Point) (s : State) : (goTo p s).cmd = s.cmd := rfl
@[simp] theorem goTo_args (p : Point) (s : State) : (goTo p s).args = s.args := rfl
@[simp] theorem goTo_rlen (p : Point) (s : State) : (goTo p s).rlen = s.rlen := rfl
@[simp] theorem goTo_resp (p : Point) (s : State) : (goTo p s).resp = s.resp := rfl
@[simp] theorem goTo_out (p : Point) (s : State) : (goTo p s).out = s.out := rfl
@[simp] theorem goTo_requests (p : Point) (s : State) : (goTo p s).requests = s.requests := rfl
@[simp] theorem goTo_resetLine (p : Point) (s : State) : (goTo p s).resetLine = s.resetLine := rfl
@[simp] theorem goTo_oracle (p : Point) (s : State) : (goTo p s).oracle = s.oracle := rfl
@[simp] theorem goTo_trace (p : Point) (s : State) : (goTo p s).trace = s.trace := rfl
@[simp] theorem goTo_delivered (p : Point) (s : State) : (goTo p s).delivered = s.delivered := rfl

/-! ### takeResponse -/

@[simp] theorem takeResponse_params (frame : Frame) (s : State) : (takeResponse frame s).params = s.params := rfl
@[simp] theorem takeResponse_phase (frame : Frame) (s : State) : (takeResponse frame s).phase = s.phase := rfl
@[simp] theorem takeResponse_point (frame : Frame) (s : State) : (takeResponse frame s).point = s.point := rfl
@[simp] theorem takeResponse_polls (frame : Frame) (s : State) : (takeResponse frame s).polls = s.polls := rfl
@[simp] theorem takeResponse_cs (frame : Frame) (s : State) : (takeResponse frame s).cs = s.cs := rfl
@[simp] theorem takeResponse_cts (frame : Frame) (s : State) : (takeResponse frame s).cts = s.cts := rfl
@[simp] theorem takeResponse_cmd (frame : Frame) (s : State) : (takeResponse frame s).cmd = s.cmd := rfl
@[simp] theorem takeResponse_args (frame : Frame) (s : State) : (takeResponse frame s).args = s.args := rfl
@[simp] theorem takeResponse_rlen (frame : Frame) (s : State) : (takeResponse frame s).rlen = s.rlen := rfl
@[simp] theorem takeResponse_resp (frame : Frame) (s : State) : (takeResponse frame s).resp = s.resp := rfl
@[simp] theorem takeResponse_out (frame : Frame) (s : State) : (takeResponse frame s).out = none := rfl
@[simp] theorem takeResponse_requests (frame : Frame) (s : State) : (takeResponse frame s).requests = s.requests := rfl
@[simp] theorem takeResponse_resetLine (frame : Frame) (s : State) : (takeResponse frame s).resetLine = s.resetLine := rfl
@[simp] theorem takeResponse_oracle (frame : Frame) (s : State) : (takeResponse frame s).oracle = s.oracle := rfl
@[simp] theorem takeResponse_trace (frame : Frame) (s : State) : (takeResponse frame s).trace = s.trace := rfl
@[simp] theorem takeResponse_delivered (frame : Frame) (s : State) : (takeResponse frame s).delivered = s.delivered ++ [frame] := rfl

/-! ### tick -/

@[simp] theorem tick_params (s : State) : (tick s).params = s.params := rfl
@[simp] theorem tick_phase (s : State) : (tick s).phase = s.phase := rfl
@[simp] theorem tick_point (s : State) : (tick s).point = s.point := rfl
@[simp] theorem tick_polls (s : State) : (tick s).polls = s.polls := rfl
@[simp] theorem tick_cs (s : State) : (tick s).cs = s.cs := rfl
@[simp] theorem tick_cts (s : State) : (tick s).cts = s.cts := rfl
@[simp] theorem tick_cmd (s : State) : (tick s).cmd = s.cmd := rfl
@[simp] theorem tick_args (s : State) : (tick s).args = s.args := rfl
@[simp] theorem tick_rlen (s : State) : (tick s).rlen = s.rlen := rfl
@[simp] theorem tick_resp (s : State) : (tick s).resp = s.resp := rfl
@[simp] theorem tick_out (s : State) : (tick s).out = s.out := rfl
@[simp] theorem tick_requests (s : State) : (tick s).requests = s.requests := rfl
@[simp] theorem tick_resetLine (s : State) : (tick s).resetLine = s.resetLine.tail := rfl
@[simp] theorem tick_oracle (s : State) : (tick s).oracle = s.oracle := rfl
@[simp] theorem tick_trace (s : State) : (tick s).trace = s.trace := rfl
@[simp] theorem tick_delivered (s : State) : (tick s).delivered = s.delivered := rfl

/-! ### releaseSelect -/

@[simp] theorem releaseSelect_params (s : State) : (releaseSelect s).params = s.params := by
  unfold releaseSelect; split <;> rfl
@[simp] theorem releaseSelect_phase (s : State) : (releaseSelect s).phase = s.phase := by
  unfold releaseSelect; split <;> rfl
@[simp] theorem releaseSelect_point (s : State) : (releaseSelect s).point = s.point := by
  unfold releaseSelect; split <;> rfl
@[simp] theorem releaseSelect_polls (s : State) : (releaseSelect s).polls = s.polls := by
  unfold releaseSelect; split <;> rfl
@[simp] theorem releaseSelect_cs (s : State) : (releaseSelect s).cs = false := by
  unfold releaseSelect; split <;> simp_all
@[simp] theorem releaseSelect_cts (s : State) : (releaseSelect s).cts = s.cts := by
  unfold releaseSelect; split <;> rfl
@[simp] theorem releaseSelect_cmd (s : State) : (releaseSelect s).cmd = s.cmd := by
  unfold releaseSelect; split <;> rfl
@[simp] theorem releaseSelect_args (s : State) : (releaseSelect s).args = s.args := by
  unfold releaseSelect; split <;> rfl
@[simp] theorem releaseSelect_rlen (s : State) : (releaseSelect s).rlen = s.rlen := by
  unfold releaseSelect; split <;> rfl
@[simp] theorem releaseSelect_resp (s : State) : (releaseSelect s).resp = s.resp := by
  unfold releaseSelect; split <;> rfl
@[simp] theorem releaseSelect_out (s : State) : (releaseSelect s).out = s.out := by
  unfold releaseSelect; split <;> rfl
@[simp] theorem releaseSelect_requests (s : State) : (releaseSelect s).requests = s.requests := by
  unfold releaseSelect; split <;> rfl
@[simp] theorem releaseSelect_resetLine (s : State) : (releaseSelect s).resetLine = s.resetLine := by
  unfold releaseSelect; split <;> rfl
@[simp] theorem releaseSelect_oracle (s : State) : (releaseSelect s).oracle = s.oracle := by
  unfold releaseSelect; split <;> rfl
@[simp] theorem releaseSelect_trace (s : State) :
    (releaseSelect s).trace = s.trace ++ (if s.cs then [.desel] else []) := by
  unfold releaseSelect; split <;> simp
@[simp] theorem releaseSelect_delivered (s : State) : (releaseSelect s).delivered = s.delivered := by
  unfold releaseSelect; split <;> rfl

/-! ### abort -/

@[simp] theorem abort_params (e : BlockError) (s : State) :
    (abort e s).params = s.params := by
  simp [abort]
@[simp] theorem abort_phase (e : BlockError) (s : State) : (abort e s).phase = .idle := by
  simp [abort]
@[simp] theorem abort_point (e : BlockError) (s : State) : (abort e s).point = none := by
  simp [abort]
@[simp] theorem abort_polls (e : BlockError) (s : State) : (abort e s).polls = 0 := by
  simp [abort]
@[simp] theorem abort_cs (e : BlockError) (s : State) : (abort e s).cs = false := by
  simp [abort]
@[simp] theorem abort_cts (e : BlockError) (s : State) : (abort e s).cts = none := by
  simp [abort]
@[simp] theorem abort_cmd (e : BlockError) (s : State) : (abort e s).cmd = none := by
  simp [abort]
@[simp] theorem abort_args (e : BlockError) (s : State) : (abort e s).args = none := by
  simp [abort]
@[simp] theorem abort_rlen (e : BlockError) (s : State) : (abort e s).rlen = none := by
  simp [abort]
@[simp] theorem abort_resp (e : BlockError) (s : State) : (abort e s).resp = none := by
  simp [abort]
@[simp] theorem abort_out (e : BlockError) (s : State) :
    (abort e s).out = some (errorFrame e) := by
  simp [abort]
@[simp] theorem abort_requests (e : BlockError) (s : State) :
    (abort e s).requests = s.requests := by
  simp [abort]
@[simp] theorem abort_resetLine (e : BlockError) (s : State) :
    (abort e s).resetLine = s.resetLine := by
  simp [abort]
@[simp] theorem abort_oracle (e : BlockError) (s : State) :
    (abort e s).oracle = s.oracle := by
  simp [abort]
@[simp] theorem abort_trace (e : BlockError) (s : State) :
    (abort e s).trace = s.trace ++ (if s.cs then [.desel] else []) := by
  simp [abort]
@[simp] theorem abort_delivered (e : BlockError) (s : State) :
    (abort e s).delivered = s.delivered := by
  simp [abort]

/-! ### resetBlock -/

@[simp] theorem resetBlock_params (s : State) : (resetBlock s).params = s.params := by
  simp [resetBlock]
@[simp] theorem resetBlock_phase (s : State) : (resetBlock s).phase = .idle := by
  simp [resetBlock]
@[simp] theorem resetBlock_point (s : State) : (resetBlock s).point = none := by
  simp [resetBlock]
@[simp] theorem resetBlock_polls (s : State) : (resetBlock s).polls = 0 := by
  simp [resetBlock]
@[simp] theorem resetBlock_cs (s : State) : (resetBlock s).cs = false := by
  simp [resetBlock]
@[simp] theorem resetBlock_cts (s : State) : (resetBlock s).cts = none := by
  simp [resetBlock]
@[simp] theorem resetBlock_cmd (s : State) : (resetBlock s).cmd = none := by
  simp [resetBlock]
@[simp] theorem resetBlock_args (s : State) : (resetBlock s).args = none := by
  simp [resetBlock]
@[simp] theorem resetBlock_rlen (s : State) : (resetBlock s).rlen = none := by
  simp [resetBlock]
@[simp] theorem resetBlock_resp (s : State) : (resetBlock s).resp = none := by
  simp [resetBlock]
@[simp] theorem resetBlock_out (s : State) : (resetBlock s).out = none := by
  simp [resetBlock]
@[simp] theorem resetBlock_requests (s : State) : (resetBlock s).requests = s.requests := by
  simp [resetBlock]
@[simp] theorem resetBlock_resetLine (s : State) : (resetBlock s).resetLine = s.resetLine := by
  simp [resetBlock]
@[simp] theorem resetBlock_oracle (s : State) : (resetBlock s).oracle = s.oracle := by
  simp [resetBlock]
@[simp] theorem resetBlock_trace (s : State) :
    (resetBlock s).trace = s.trace ++ (if s.cs then [.desel] else []) := by
  simp [resetBlock]
@[simp] theorem resetBlock_delivered (s : State) : (resetBlock s).delivered = s.delivered := by
  simp [resetBlock]

end Sys2Proof.Machine
end

