-- ==== Sys2Proof/Laws/Ops.lean ====
section
/-! SUPPORT. What each shared operation can do, said once: the oracle's draws, the bus primitives that can
fail, the poll bound. -/

namespace Sys2Proof.Machine

/-! ### The oracle -/

@[simp] theorem drawFault_listed (fails : Bool) (rest : List Bool) (bytes : List Byte) (draws : Nat) :
    drawFault ⟨fails :: rest, bytes, draws⟩ = (fails, ⟨rest, bytes, draws⟩) := rfl

@[simp] theorem drawFault_bytes (o : Oracle) : (drawFault o).2.bytes = o.bytes := by
  unfold drawFault; split <;> rfl

@[simp] theorem drawBytes_zero (o : Oracle) : drawBytes 0 o = ([], o) := rfl

@[simp] theorem drawBytes_length (n : Nat) (o : Oracle) : (drawBytes n o).1.length = n := by
  induction n generalizing o with
  | zero => rfl
  | succ n ih => simp [drawBytes, ih]

/-- One byte drawn is a list of one byte. -/
theorem drawBytes_one (o : Oracle) : drawBytes 1 o = ([(drawByte o).1], (drawByte o).2) := rfl

/-- Bytes that are known come out in order, and nothing else of the oracle changes. -/
theorem drawBytes_listed (bs : List Byte) (faults : List Bool) (rest : List Byte) (draws : Nat) :
    drawBytes bs.length ⟨faults, bs ++ rest, draws⟩ = (bs, ⟨faults, rest, draws⟩) := by
  induction bs with
  | nil => rfl
  | cons b bs ih =>
    have hb : drawByte ⟨faults, b :: bs ++ rest, draws⟩ = (b, ⟨faults, bs ++ rest, draws⟩) := rfl
    simp only [List.length_cons, drawBytes, hb, ih]

/-! ### The primitives that can fail (R140) -/

/-- A write that the oracle lets through. -/
theorem busWrite_done (bs : List Byte) (s : State) (h : (drawFault s.oracle).1 = false) :
    busWrite bs s = .done () (record (.wr bs) { s with oracle := (drawFault s.oracle).2 }) := by
  simp [busWrite, h]

/-- A write that fails: its event, and nothing moved. -/
theorem busWrite_failed (bs : List Byte) (s : State) (h : (drawFault s.oracle).1 = true) :
    busWrite bs s = .failed (record (.wrErr bs) { s with oracle := (drawFault s.oracle).2 }) := by
  simp [busWrite, h]

/-- A read that the oracle lets through. -/
theorem busRead_done (n : Nat) (s : State) (h : (drawFault s.oracle).1 = false) :
    busRead n s =
      .done (drawBytes n (drawFault s.oracle).2).1
        (record (.rd n (drawBytes n (drawFault s.oracle).2).1)
          { s with oracle := (drawBytes n (drawFault s.oracle).2).2 }) := by
  simp [busRead, h]

/-- A read that fails: its event, and no bytes. -/
theorem busRead_failed (n : Nat) (s : State) (h : (drawFault s.oracle).1 = true) :
    busRead n s = .failed (record (.rdErr n) { s with oracle := (drawFault s.oracle).2 }) := by
  simp [busRead, h]

/-! ### The poll bound (R143) -/

/-- The bound is reached exactly when one more poll is not allowed. -/
theorem boundReached_eq_false_iff (s : State) :
    boundReached s = false ↔ pollsAllowed s.params (s.polls + 1) := by
  unfold boundReached pollsAllowed
  cases s.params.ctsMaxPolls <;> simp

/-- The first poll of a wait is always allowed: the bound is positive (R6). -/
theorem pollsAllowed_one (p : Params) : pollsAllowed p 1 := by
  unfold pollsAllowed
  cases p.ctsMaxPolls with
  | bounded most => exact most.pos
  | unbounded => trivial

end Sys2Proof.Machine
end

