-- ==== Sys2Proof/Laws/Step.lean ====
section
/-! SUPPORT. What a step can be, said once: reset, or a step of the block; in `IDLE` the host takes a
response, or a request is accepted, or the block waits; otherwise the sequencer runs its label. -/

namespace Sys2Proof.Machine

/-- Not asserted, the reset signal is used up and the block makes its step. -/
theorem step_released (s : State) (h : resetReleased s) : step s = releasedStep (tick s) := by
  unfold step clockedStep tick
  split
  · rename_i h0; cases s; simp_all
  · rename_i h0; simp [resetReleased, h0] at h
  · rename_i h0; simp [h0]

/-- Asserted, the step is the reset. -/
theorem step_reset (s : State) (rest : List Bool) (h : s.resetLine = true :: rest) :
    step s = .next (resetBlock { s with resetLine := rest }) := by
  simp [step, clockedStep, h]

/-- With a response in the port, the host takes it. -/
theorem step_take (s : State) (f : Frame) (hr : resetReleased s) (hp : s.phase = .idle)
    (ho : s.out = some f) : step s = .next (takeResponse f (tick s)) := by
  simp [step_released s hr, releasedStep, hp, idleStep, ho]

/-- With the port empty and a request waiting, the request is accepted. -/
theorem step_accept (s : State) (f : Frame) (rest : List Frame) (hr : resetReleased s)
    (hp : s.phase = .idle) (ho : s.out = none) (hq : s.requests = f :: rest) :
    step s = acceptRequest f { tick s with requests := rest } := by
  simp [step_released s hr, releasedStep, hp, idleStep, ho, hq]

/-- With nothing to take and nothing to accept, the block waits. -/
theorem step_wait (s : State) (hr : resetReleased s) (hp : s.phase = .idle) (ho : s.out = none)
    (hq : s.requests = []) : step s = .next (tick s) := by
  simp [step_released s hr, releasedStep, hp, idleStep, ho, hq]

/-- With a request in progress, the sequencer runs its label. -/
theorem step_busy (s : State) (p : Point) (hr : resetReleased s) (hp : s.phase ≠ .idle)
    (ho : s.point = some p) : step s = runPoint p (tick s) := by
  simp [step_released s hr, releasedStep, hp, sequencerStep, ho]

/-- An accepted request that decodes is run. -/
theorem acceptRequest_ok (f : Frame) (i : Instr) (s : State) (h : decode f = .ok i) :
    acceptRequest f s = exec i s := by
  simp [acceptRequest, h]

/-- An accepted request that does not decode is answered `[0x05]` (R69). -/
theorem acceptRequest_illFormed (f : Frame) (e : IllFormed) (s : State) (h : decode f = .error e) :
    acceptRequest f s = .next (respond [0x05] s) := by
  simp [acceptRequest, h, errorFrame, errorCode]

/-- The inversion of `step`: the ways a step answers a next state. -/
theorem step_cases {s t : State} (h : step s = .next t) :
    (∃ rest, s.resetLine = true :: rest ∧ t = resetBlock { s with resetLine := rest }) ∨
    (resetReleased s ∧ s.phase = .idle ∧ ∃ f, s.out = some f ∧ t = takeResponse f (tick s)) ∨
    (resetReleased s ∧ s.phase = .idle ∧ s.out = none ∧ s.requests = [] ∧ t = tick s) ∨
    (resetReleased s ∧ s.phase = .idle ∧ s.out = none ∧ ∃ f rest, s.requests = f :: rest ∧
      acceptRequest f { tick s with requests := rest } = .next t) ∨
    (resetReleased s ∧ s.phase ≠ .idle ∧ ∃ p, s.point = some p ∧ runPoint p (tick s) = .next t) := by
  by_cases hr : resetReleased s
  · by_cases hp : s.phase = .idle
    · cases ho : s.out with
      | some f =>
        rw [step_take s f hr hp ho, Host.Outcome.next.injEq] at h
        exact .inr (.inl ⟨hr, hp, f, rfl, h.symm⟩)
      | none =>
        cases hq : s.requests with
        | nil =>
          rw [step_wait s hr hp ho hq, Host.Outcome.next.injEq] at h
          exact .inr (.inr (.inl ⟨hr, hp, rfl, rfl, h.symm⟩))
        | cons f rest =>
          rw [step_accept s f rest hr hp ho hq] at h
          exact .inr (.inr (.inr (.inl ⟨hr, hp, rfl, f, rest, rfl, h⟩)))
    · cases ho : s.point with
      | none => simp [step_released s hr, releasedStep, hp, sequencerStep, ho] at h
      | some p =>
        rw [step_busy s p hr hp ho] at h
        exact .inr (.inr (.inr (.inr ⟨hr, hp, p, rfl, h⟩)))
  · cases hl : s.resetLine with
    | nil => simp [resetReleased, hl] at hr
    | cons b rest =>
      have hb : b = true := by simpa [resetReleased, hl] using hr
      subst hb
      rw [step_reset s rest hl, Host.Outcome.next.injEq] at h
      exact .inl ⟨rest, rfl, h.symm⟩

/-- An abort in `IDLE`, with nothing latched and the chip deselected, changes only the response (R172). -/
theorem abort_idle (e : BlockError) (s : State) (hp : s.phase = .idle) (h : IdleShape s) :
    abort e s = respond (errorFrame e) s := by
  obtain ⟨h1, h2, h3, h4, h5, h6, h7, h8⟩ := h
  cases s
  simp_all [abort, releaseSelect, clearLatches, respond]

/-- `withFetchWord` presents the word: the coming step runs the decoded instruction. -/
theorem step_withFetchWord (s : State) (nbits w : Nat) (i : Instr)
    (h : decodeTableWord nbits w = some i) :
    ∃ t, step (s.withFetchWord nbits w) = exec i t ∧ t.requests = s.requests ∧ t.out = none ∧
      t.phase = .idle ∧ t.params = s.params ∧ t.oracle = s.oracle := by
  have hd : decode (tableFrame nbits w) = .ok i := by
    unfold decodeTableWord at h
    split at h <;> simp_all
  have hrel : resetReleased (s.withFetchWord nbits w) := by
    unfold State.withFetchWord presentRequest resetReleased releaseReset
    cases s.resetLine <;> simp
  have hp : (s.withFetchWord nbits w).phase = .idle := by
    unfold State.withFetchWord presentRequest readyToAccept
    split <;> simp_all
  have ho : (s.withFetchWord nbits w).out = none := by
    unfold State.withFetchWord presentRequest readyToAccept
    split <;> simp_all
  have hq : (s.withFetchWord nbits w).requests = tableFrame nbits w :: s.requests := rfl
  refine ⟨{ tick (s.withFetchWord nbits w) with requests := s.requests }, ?_, rfl, ho, hp, ?_, ?_⟩
  · rw [step_accept _ _ _ hrel hp ho hq, acceptRequest_ok _ _ _ hd]
  · unfold State.withFetchWord presentRequest readyToAccept
    split <;> simp_all
  · unfold State.withFetchWord presentRequest readyToAccept
    split <;> simp_all

end Sys2Proof.Machine
end

