-- ==== Sys2Proof/Laws/Handshake.lean ====
section
/-! SUPPORT. What each label of R145 whose primitive can fail does, said once: the two outcomes of the
oracle, with the bus call already worked out. -/

namespace Sys2Proof.Machine

/-- A2 and C2: the read-status opcode is written, or the request ends in `BUS_ERROR`. -/
theorem pollAsk_eq (next : Point) (s : State) :
    pollAsk next s =
      if (drawFault s.oracle).1 then
        abort .busError
          (record (.wrErr [s.params.opReadCmdBuff]) { s with oracle := (drawFault s.oracle).2 })
      else
        goTo next
          (record (.wr [s.params.opReadCmdBuff]) { s with oracle := (drawFault s.oracle).2 }) := by
  unfold pollAsk busWrite
  cases h : (drawFault s.oracle).1 <;> simp [h]

/-- A3: one byte is read into `s.cts`. -/
theorem seqA3_eq (s : State) :
    seqA3 s = .next
      (if (drawFault s.oracle).1 then
        abort .busError (record (.rdErr 1) { s with oracle := (drawFault s.oracle).2 })
      else
        goTo .a4
          { record (.rd 1 [(drawByte (drawFault s.oracle).2).1])
              { s with oracle := (drawByte (drawFault s.oracle).2).2 } with
            cts := some (drawByte (drawFault s.oracle).2).1 }) := by
  unfold seqA3 busRead
  cases h : (drawFault s.oracle).1 <;> simp [h, drawBytes_one]

/-- C3: one byte is read into `s.cts`; ready, the response is next. -/
theorem seqC3_eq (s : State) :
    seqC3 s = .next
      (if (drawFault s.oracle).1 then
        abort .busError (record (.rdErr 1) { s with oracle := (drawFault s.oracle).2 })
      else
        goTo (if (drawByte (drawFault s.oracle).2).1 = Config.ctsReady then .c4 else .c6)
          { record (.rd 1 [(drawByte (drawFault s.oracle).2).1])
              { s with oracle := (drawByte (drawFault s.oracle).2).2 } with
            cts := some (drawByte (drawFault s.oracle).2).1 }) := by
  unfold seqC3 busRead
  cases h : (drawFault s.oracle).1
  · by_cases hb : (drawByte (drawFault s.oracle).2).1 = Config.ctsReady <;>
      simp [h, drawBytes_one, hb]
  · simp [h]

/-- A4: the wait ends, fails or goes on (R143). -/
theorem seqA4_eq (s : State) (b : Byte) (h : s.cts = some b) :
    seqA4 s = .next
      (if b = Config.ctsReady then goTo .b1 { busDeselect s with phase := .execSend }
      else pollAgain .a5 (busDeselect s)) := by
  unfold seqA4
  rw [h]
  dsimp only
  split <;> rfl

/-- B2: the command is written, or the request ends in `BUS_ERROR`. -/
theorem seqB2_eq (s : State) (cmd : Byte) (args : List Byte) (hc : s.cmd = some cmd)
    (ha : s.args = some args) :
    seqB2 s = .next
      (if (drawFault s.oracle).1 then
        abort .busError (record (.wrErr (cmd :: args)) { s with oracle := (drawFault s.oracle).2 })
      else
        goTo .b3 (record (.wr (cmd :: args)) { s with oracle := (drawFault s.oracle).2 })) := by
  unfold seqB2 busWrite
  rw [hc, ha]
  cases h : (drawFault s.oracle).1 <;> simp [h]

/-- B3: the request ends, or the response wait begins. -/
theorem seqB3_eq (s : State) (rlen : Byte) (h : s.rlen = some rlen) :
    seqB3 s = .next
      (if rlen = 0 then finish (okFrame []) (busDeselect s)
      else goTo .c1 { busDeselect s with phase := .execResp, polls := 0 }) := by
  unfold seqB3
  rw [h]
  dsimp only
  split <;> rfl

/-- C4: the response is read, or the request ends in `BUS_ERROR`. -/
theorem seqC4_eq (s : State) (rlen : Byte) (h : s.rlen = some rlen) :
    seqC4 s = .next
      (if (drawFault s.oracle).1 then
        abort .busError (record (.rdErr rlen.toNat) { s with oracle := (drawFault s.oracle).2 })
      else
        goTo .c5
          { record (.rd rlen.toNat (drawBytes rlen.toNat (drawFault s.oracle).2).1)
              { s with oracle := (drawBytes rlen.toNat (drawFault s.oracle).2).2 } with
            resp := some (drawBytes rlen.toNat (drawFault s.oracle).2).1 }) := by
  unfold seqC4 busRead
  rw [h]
  cases hf : (drawFault s.oracle).1 <;> simp [hf]

/-- C5: the response is delivered. -/
theorem seqC5_eq (s : State) (resp : List Byte) (h : s.resp = some resp) :
    seqC5 s = .next (finish (okFrame resp) (busDeselect s)) := by
  unfold seqC5
  rw [h]

end Sys2Proof.Machine
end

