-- ==== Sys2Proof/Laws/PerInstr.lean ====
section
/-! SUPPORT. Statements made for each instruction as it is written down: the frame of a well-formed
instruction starts with its operation code and is as long as R63 reads from it. -/

namespace Sys2Proof.Laws.FrameShape

/-- A well-formed instruction's frame has the length R63 requires, between 2 and 259 bytes (R60). -/
def Statement (i : Instr) : Prop :=
  i.wellFormed = true →
    requiredLength (encode i) = .ok (encode i).length ∧ 2 ≤ (encode i).length ∧
      (encode i).length ≤ 259

theorem crc (data : List Byte) : Statement (.crc data) := by
  intro h
  have hl : data.length ≤ 255 := of_decide_eq_true h
  refine ⟨?_, ?_, ?_⟩
  · simp only [encode, opcodeOfInstr, encodeOperands, requiredLength_cons, List.length_cons,
      BitVec.toNat_ofNat]
    congr 1
    omega
  · simp [encode, encodeOperands]
  · simp only [encode, encodeOperands, List.length_cons]; omega

theorem pktBuild (opcode : Word) (channel : Half) : Statement (.pktBuild opcode channel) := by
  intro _
  exact ⟨rfl, by simp [encode, encodeOperands], by simp [encode, encodeOperands]⟩

theorem pktCheck (packet : Vector Byte 7) : Statement (.pktCheck packet) := by
  intro _
  refine ⟨?_, ?_, ?_⟩
  · simp [encode, opcodeOfInstr, encodeOperands, requiredLength_cons]
  · simp [encode, encodeOperands]
  · simp [encode, encodeOperands]

theorem pllFreq (channel : Half) : Statement (.pllFreq channel) := by
  intro _
  exact ⟨rfl, by simp [encode, encodeOperands], by simp [encode, encodeOperands]⟩

theorem pllParams (channel : Half) : Statement (.pllParams channel) := by
  intro _
  exact ⟨rfl, by simp [encode, encodeOperands], by simp [encode, encodeOperands]⟩

theorem pllRegs (channel : Half) : Statement (.pllRegs channel) := by
  intro _
  exact ⟨rfl, by simp [encode, encodeOperands], by simp [encode, encodeOperands]⟩

theorem exec (cmd : Byte) (args : List Byte) (rlen : Byte) : Statement (.exec cmd args rlen) := by
  intro h
  have hl : args.length ≤ 255 := of_decide_eq_true h
  refine ⟨?_, ?_, ?_⟩
  · simp only [encode, opcodeOfInstr, encodeOperands, requiredLength_cons, List.length_cons,
      List.length_append, List.length_nil, BitVec.toNat_ofNat]
    congr 1
    omega
  · simp [encode, encodeOperands]
  · simp only [encode, encodeOperands, List.length_cons, List.length_append, List.length_nil]; omega

end Sys2Proof.Laws.FrameShape
end

