-- ==== Sys2Proof/Tests/Slice0.lean ====
section
/-! SUPPORT. The model's own tests: the vectors of spec/95_test_vectors.md, words written out from R62, one
step at a time; and for each statement with hypotheses a witness that meets them. -/

namespace Sys2Proof.Tests

open Sys2Proof Sys2Proof.Machine

/-! ### Small states -/

/-- Parameters: the candidate table M8D, the Si446x read-status opcode. -/
def testParams (most : PollBound) : Params := ⟨tableM8D, most, 0x44, 1⟩

/-- An idle block with the requests and the chip's answers given. -/
def offered (most : PollBound) (requests : List Frame) (faults : List Bool) (bytes : List Byte) :
    State :=
  { State.reset with
    params := testParams most, requests := requests, oracle := ⟨faults, bytes, 0⟩ }

/-- A block in the middle of `EXEC 0x01, [0x02], 2`, standing at a label. -/
def standing (p : Point) (most : PollBound) (faults : List Bool) (bytes : List Byte) : State :=
  { offered most [] faults bytes with
    phase := pointPhase p, point := some p, polls := if pointBeforePoll p then 0 else 1
    cs := pointSelected p, cmd := some 0x01, args := some [0x02], rlen := some 2
    cts := match p with
      | .c4 | .c5 => some 0xFF
      | .a4 | .c6 => some 0x00
      | _ => none
    resp := if p = .c5 then some [0x11, 0x22] else none
    trace := if pointSelected p then [.sel] else [] }

/-- The next state of an outcome. -/
def nextState : Host.Outcome State Fault Refusal → Option State
  | .next t => some t
  | _ => none

/-- The response an outcome leaves in `s.out`. -/
def response (o : Host.Outcome State Fault Refusal) : Option Frame := (nextState o).bind (·.out)

/-- The response to a request frame, one step after it is offered. -/
def answer (f : Frame) : Option Frame := response (step (offered (.bounded 3) [f] [] []))

/-! ### WellFormed: an ill-formed term for each check -/

theorem test_wellFormed_refuses_long_data :
    (Instr.crc (List.replicate 256 0x00)).wellFormed = false := by decide +kernel

theorem test_wellFormed_refuses_long_args :
    (Instr.exec 0x01 (List.replicate 256 0x00) 0).wellFormed = false := by decide +kernel

theorem test_wellFormed_accepts_longest : (Instr.crc (List.replicate 255 0x00)).wellFormed = true ∧
    (Instr.exec 0x01 (List.replicate 255 0x00) 0).wellFormed = true := by decide +kernel

/-! ### Decoding: words written out from R62 -/

theorem test_decode_crc : decode [0x01, 0x02, 0xAA, 0xBB] = .ok (.crc [0xAA, 0xBB]) := by decide
theorem test_decode_pktBuild :
    decode [0x02, 0x96, 0x53, 0x00, 0x05, 0x00, 0x2A] = .ok (.pktBuild 0x96530005 42) := by decide
theorem test_decode_pktCheck : decode [0x03, 0x96, 0x53, 0x00, 0x05, 0x00, 0x2A, 0xBC] =
    .ok (.pktCheck #v[0x96, 0x53, 0x00, 0x05, 0x00, 0x2A, 0xBC]) := by decide
theorem test_decode_pllFreq : decode [0x10, 0x01, 0xE0] = .ok (.pllFreq 480) := by decide
theorem test_decode_pllParams : decode [0x11, 0x27, 0x80] = .ok (.pllParams 10112) := by decide
theorem test_decode_pllRegs : decode [0x12, 0x11, 0x4F] = .ok (.pllRegs 4431) := by decide
theorem test_decode_exec : decode [0x20, 0x12, 0x03, 0x40, 0x02, 0x00, 0x02] =
    .ok (.exec 0x12 [0x40, 0x02, 0x00] 2) := by decide

theorem test_encode_exec : encode (.exec 0x12 [0x40, 0x02, 0x00] 2) =
    [0x20, 0x12, 0x03, 0x40, 0x02, 0x00, 0x02] := by decide

/-- V-DEC: the ill-formed frames, each refused by its name. -/
theorem test_decode_refusals :
    decode [] = .error .empty ∧ decode [0x00] = .error .unknownOpcode ∧
    decode [0x04, 0x00, 0x00] = .error .unknownOpcode ∧ decode [0x01] = .error .noLengthByte ∧
    decode [0x01, 0x02, 0xAA] = .error .tooShort ∧
    decode [0x01, 0x01, 0xAA, 0xBB] = .error .tooLong ∧
    decode [0x10, 0x00] = .error .tooShort ∧ decode [0x10, 0x00, 0x01, 0x00] = .error .tooLong ∧
    decode [0x20, 0x01] = .error .noLengthByte ∧
    decode [0x20, 0x01, 0x02, 0xAA, 0xBB] = .error .tooShort ∧
    decode [0x20, 0x01, 0x00, 0x00, 0x00] = .error .tooLong := by decide

/-- The table's words of one byte, operand words of zeros. -/
theorem test_table_words :
    decodeTableWord 8 0x01 = some (.crc []) ∧ decodeTableWord 8 0x02 = some (.pktBuild 0 0) ∧
    decodeTableWord 16 0x0003 = some (.pktCheck #v[0, 0, 0, 0, 0, 0, 0]) ∧
    decodeTableWord 8 0x10 = some (.pllFreq 0) ∧ decodeTableWord 8 0x20 = some (.exec 0 [] 0) ∧
    decodeTableWord 8 0x55 = none := by decide

theorem test_table_word_runs_after_reset :
    response (step (State.reset.withFetchWord 8 0x12)) = some [0x01] := by decide

/-! ### The operations (spec/95_test_vectors.md) -/

/-- V-CRC. -/
theorem test_crc : answer [0x01, 0x06, 0x96, 0x53, 0x00, 0x05, 0x00, 0x2A] = some [0x00, 0xBC] := by
  decide +kernel
theorem test_crc_empty : answer [0x01, 0x00] = some [0x00, 0xFF] := by decide +kernel

/-- L1-2. -/
theorem test_pktBuild : answer [0x02, 0x96, 0x53, 0x00, 0x05, 0x00, 0x2A] =
    some [0x00, 0x96, 0x53, 0x00, 0x05, 0x00, 0x2A, 0xBC] := by decide +kernel

/-- V-PKT. -/
theorem test_pktCheck_valid :
    answer [0x03, 0x96, 0x53, 0x00, 0x05, 0x00, 0x2A, 0xBC] = some [0x00, 0x01] := by
  decide +kernel
theorem test_pktCheck_tampered :
    answer [0x03, 0x96, 0x53, 0x00, 0x05, 0x00, 0x2B, 0xBC] = some [0x00, 0x00] := by
  decide +kernel

/-- V-PLL: channel 1, where the rounded value is not the exact decimal; channel 65535. -/
theorem test_pllFreq : answer [0x10, 0x00, 0x01] =
    some [0x00, 0x40, 0x7B, 0x10, 0xCD, 0x70, 0xA3, 0xD7, 0x0B] := by decide +kernel
theorem test_pllFreq_top : answer [0x10, 0xFF, 0xFF] =
    some [0x00, 0x40, 0x7C, 0x42, 0x51, 0xEB, 0x85, 0x1E, 0xB8] := by decide +kernel

/-- L1-4. -/
theorem test_pllParams :
    answer [0x11, 0x27, 0x7F] = some [0x00, 0x38, 0x00, 0x0F, 0xD0, 0x36] := by decide +kernel
theorem test_pllParams_range :
    answer [0x11, 0x00, 0x00] = some [0x01] ∧ answer [0x11, 0x27, 0x80] = some [0x01] := by
  decide +kernel

/-- V-PLL: both sides of the branch. -/
theorem test_pllRegs_branch :
    answer [0x12, 0x22, 0x9E] = some [0x00, 0x38, 0x0F, 0x65, 0xA1] ∧
    answer [0x12, 0x22, 0x9F] = some [0x00, 0x38, 0x0F, 0x65, 0xB7] := by decide +kernel

/-- An ill-formed frame is answered `[0x05]` with no bus event. -/
theorem test_illFormed : answer [0x07] = some [0x05] := by decide +kernel

/-- `EXEC` is accepted: it stands at A1 with its operands latched, and has called nothing. -/
theorem test_exec_accepted :
    let t := nextState (step (offered (.bounded 3) [[0x20, 0x01, 0x01, 0x02, 0x08]] [] []))
    t.map (·.point) = some (some .a1) ∧ t.map (·.cmd) = some (some 0x01) ∧
      t.map (·.args) = some (some [0x02]) ∧ t.map (·.rlen) = some (some 8) ∧
      t.map (·.trace) = some [] := by decide +kernel

/-! ### The sequencer (V-EXEC), one label at a time -/

/-- E7: with a bound of 1, the first not-ready byte ends the wait. -/
theorem test_a4_bound : response (step (standing .a4 (.bounded 1) [] [])) = some [0x03] := by
  decide +kernel

/-- E5: with a bound of 3 it goes on to the sleep. -/
theorem test_a4_again :
    (nextState (step (standing .a4 (.bounded 3) [] []))).map (fun t => (t.point, t.trace)) =
    some (some .a5, [.sel, .desel]) := by decide +kernel

/-- E8: a failed command write ends in a `Desel` and `[0x04]`. -/
theorem test_b2_fails :
    (nextState (step (standing .b2 (.bounded 3) [true] []))).map (fun t => (t.out, t.trace)) =
    some (some [0x04], [.sel, .wrErr [0x01, 0x02], .desel]) := by decide +kernel

/-- E3: a ready response poll reads on in the same span. -/
theorem test_c3_ready :
    (nextState (step (standing .c3 (.bounded 3) [false] [0xFF]))).map
      (fun t => (t.point, t.trace)) =
    some (some .c4, [.sel, .rd 1 [0xFF]]) := by decide +kernel

/-- R32: reset in a span releases chip select and gives no response. -/
theorem test_reset_in_span :
    (nextState (step { standing .c4 (.bounded 3) [] [] with resetLine := [true] })).map
      (fun t => (t.out, t.cs, t.phase)) = some (none, false, .idle) := by decide +kernel

/-! ### The host's side -/

/-- P2: the assembly line of step 2 and its frame. -/
theorem test_assemble_setProp :
    (readLine "SETPROP 0x40, 0x00, [0x38, 0x0E, 0xA8, 0x93]".toList).bind
      (assemble si446xOpcodes) =
    some [0x20, 0x11, 0x07, 0x40, 0x04, 0x00, 0x38, 0x0E, 0xA8, 0x93, 0x00] := by decide

/-- L1-5: the configuration table of the source's example, and its malformed one. -/
theorem test_replay : replayTable [2, 0x01, 0x02, 0, 0x55] = ⟨[.exec 0x01 [0x02] 0], false⟩ ∧
    replayTable [17, 0x01] = ⟨[], true⟩ := by decide

/-- P3: the identity response. -/
theorem test_identity : readIdentity [0xA0, 0x44, 0x63, 0x01, 0x00, 0x2A, 0x03, 0x06] =
    some ⟨0xA0, 0x4463, 0x01, 0x002A, 0x03, 0x06⟩ := by decide

/-! ### The candidate tables -/

/-- R103: the printed table `CRC8-M8D`. -/
theorem test_table_M8D : tableM8D.toList =
    ([0x00, 0x8D, 0x97, 0x1A, 0xA3, 0x2E, 0x34, 0xB9, 0xCB, 0x46, 0x5C, 0xD1, 0x68, 0xE5, 0xFF, 0x72] ++
    [0x1B, 0x96, 0x8C, 0x01, 0xB8, 0x35, 0x2F, 0xA2, 0xD0, 0x5D, 0x47, 0xCA, 0x73, 0xFE, 0xE4, 0x69] ++
    [0x36, 0xBB, 0xA1, 0x2C, 0x95, 0x18, 0x02, 0x8F, 0xFD, 0x70, 0x6A, 0xE7, 0x5E, 0xD3, 0xC9, 0x44] ++
    [0x2D, 0xA0, 0xBA, 0x37, 0x8E, 0x03, 0x19, 0x94, 0xE6, 0x6B, 0x71, 0xFC, 0x45, 0xC8, 0xD2, 0x5F] ++
    [0x6C, 0xE1, 0xFB, 0x76, 0xCF, 0x42, 0x58, 0xD5, 0xA7, 0x2A, 0x30, 0xBD, 0x04, 0x89, 0x93, 0x1E] ++
    [0x77, 0xFA, 0xE0, 0x6D, 0xD4, 0x59, 0x43, 0xCE, 0xBC, 0x31, 0x2B, 0xA6, 0x1F, 0x92, 0x88, 0x05] ++
    [0x5A, 0xD7, 0xCD, 0x40, 0xF9, 0x74, 0x6E, 0xE3, 0x91, 0x1C, 0x06, 0x8B, 0x32, 0xBF, 0xA5, 0x28] ++
    [0x41, 0xCC, 0xD6, 0x5B, 0xE2, 0x6F, 0x75, 0xF8, 0x8A, 0x07, 0x1D, 0x90, 0x29, 0xA4, 0xBE, 0x33] ++
    [0xD8, 0x55, 0x4F, 0xC2, 0x7B, 0xF6, 0xEC, 0x61, 0x13, 0x9E, 0x84, 0x09, 0xB0, 0x3D, 0x27, 0xAA] ++
    [0xC3, 0x4E, 0x54, 0xD9, 0x60, 0xED, 0xF7, 0x7A, 0x08, 0x85, 0x9F, 0x12, 0xAB, 0x26, 0x3C, 0xB1] ++
    [0xEE, 0x63, 0x79, 0xF4, 0x4D, 0xC0, 0xDA, 0x57, 0x25, 0xA8, 0xB2, 0x3F, 0x86, 0x0B, 0x11, 0x9C] ++
    [0xF5, 0x78, 0x62, 0xEF, 0x56, 0xDB, 0xC1, 0x4C, 0x3E, 0xB3, 0xA9, 0x24, 0x9D, 0x10, 0x0A, 0x87] ++
    [0xB4, 0x39, 0x23, 0xAE, 0x17, 0x9A, 0x80, 0x0D, 0x7F, 0xF2, 0xE8, 0x65, 0xDC, 0x51, 0x4B, 0xC6] ++
    [0xAF, 0x22, 0x38, 0xB5, 0x0C, 0x81, 0x9B, 0x16, 0x64, 0xE9, 0xF3, 0x7E, 0xC7, 0x4A, 0x50, 0xDD] ++
    [0x82, 0x0F, 0x15, 0x98, 0x21, 0xAC, 0xB6, 0x3B, 0x49, 0xC4, 0xDE, 0x53, 0xEA, 0x67, 0x7D, 0xF0] ++
    [0x99, 0x14, 0x0E, 0x83, 0x3A, 0xB7, 0xAD, 0x20, 0x52, 0xDF, 0xC5, 0x48, 0xF1, 0x7C, 0x66, 0xEB] : List Byte) := by
  decide +kernel

/-- R103: the printed table `CRC8-R8D`. -/
theorem test_table_R8D : tableR8D.toList =
    ([0x00, 0x1B, 0x36, 0x2D, 0x6C, 0x77, 0x5A, 0x41, 0xD8, 0xC3, 0xEE, 0xF5, 0xB4, 0xAF, 0x82, 0x99] ++
    [0xD3, 0xC8, 0xE5, 0xFE, 0xBF, 0xA4, 0x89, 0x92, 0x0B, 0x10, 0x3D, 0x26, 0x67, 0x7C, 0x51, 0x4A] ++
    [0xC5, 0xDE, 0xF3, 0xE8, 0xA9, 0xB2, 0x9F, 0x84, 0x1D, 0x06, 0x2B, 0x30, 0x71, 0x6A, 0x47, 0x5C] ++
    [0x16, 0x0D, 0x20, 0x3B, 0x7A, 0x61, 0x4C, 0x57, 0xCE, 0xD5, 0xF8, 0xE3, 0xA2, 0xB9, 0x94, 0x8F] ++
    [0xE9, 0xF2, 0xDF, 0xC4, 0x85, 0x9E, 0xB3, 0xA8, 0x31, 0x2A, 0x07, 0x1C, 0x5D, 0x46, 0x6B, 0x70] ++
    [0x3A, 0x21, 0x0C, 0x17, 0x56, 0x4D, 0x60, 0x7B, 0xE2, 0xF9, 0xD4, 0xCF, 0x8E, 0x95, 0xB8, 0xA3] ++
    [0x2C, 0x37, 0x1A, 0x01, 0x40, 0x5B, 0x76, 0x6D, 0xF4, 0xEF, 0xC2, 0xD9, 0x98, 0x83, 0xAE, 0xB5] ++
    [0xFF, 0xE4, 0xC9, 0xD2, 0x93, 0x88, 0xA5, 0xBE, 0x27, 0x3C, 0x11, 0x0A, 0x4B, 0x50, 0x7D, 0x66] ++
    [0xB1, 0xAA, 0x87, 0x9C, 0xDD, 0xC6, 0xEB, 0xF0, 0x69, 0x72, 0x5F, 0x44, 0x05, 0x1E, 0x33, 0x28] ++
    [0x62, 0x79, 0x54, 0x4F, 0x0E, 0x15, 0x38, 0x23, 0xBA, 0xA1, 0x8C, 0x97, 0xD6, 0xCD, 0xE0, 0xFB] ++
    [0x74, 0x6F, 0x42, 0x59, 0x18, 0x03, 0x2E, 0x35, 0xAC, 0xB7, 0x9A, 0x81, 0xC0, 0xDB, 0xF6, 0xED] ++
    [0xA7, 0xBC, 0x91, 0x8A, 0xCB, 0xD0, 0xFD, 0xE6, 0x7F, 0x64, 0x49, 0x52, 0x13, 0x08, 0x25, 0x3E] ++
    [0x58, 0x43, 0x6E, 0x75, 0x34, 0x2F, 0x02, 0x19, 0x80, 0x9B, 0xB6, 0xAD, 0xEC, 0xF7, 0xDA, 0xC1] ++
    [0x8B, 0x90, 0xBD, 0xA6, 0xE7, 0xFC, 0xD1, 0xCA, 0x53, 0x48, 0x65, 0x7E, 0x3F, 0x24, 0x09, 0x12] ++
    [0x9D, 0x86, 0xAB, 0xB0, 0xF1, 0xEA, 0xC7, 0xDC, 0x45, 0x5E, 0x73, 0x68, 0x29, 0x32, 0x1F, 0x04] ++
    [0x4E, 0x55, 0x78, 0x63, 0x22, 0x39, 0x14, 0x0F, 0x96, 0x8D, 0xA0, 0xBB, 0xFA, 0xE1, 0xCC, 0xD7] : List Byte) := by
  decide +kernel

/-- R103: the printed table `CRC8-L8D`. -/
theorem test_table_L8D : tableL8D.toList =
    ([0x00, 0xCC, 0x83, 0x4F, 0x1D, 0xD1, 0x9E, 0x52, 0x3A, 0xF6, 0xB9, 0x75, 0x27, 0xEB, 0xA4, 0x68] ++
    [0x74, 0xB8, 0xF7, 0x3B, 0x69, 0xA5, 0xEA, 0x26, 0x4E, 0x82, 0xCD, 0x01, 0x53, 0x9F, 0xD0, 0x1C] ++
    [0xE8, 0x24, 0x6B, 0xA7, 0xF5, 0x39, 0x76, 0xBA, 0xD2, 0x1E, 0x51, 0x9D, 0xCF, 0x03, 0x4C, 0x80] ++
    [0x9C, 0x50, 0x1F, 0xD3, 0x81, 0x4D, 0x02, 0xCE, 0xA6, 0x6A, 0x25, 0xE9, 0xBB, 0x77, 0x38, 0xF4] ++
    [0xCB, 0x07, 0x48, 0x84, 0xD6, 0x1A, 0x55, 0x99, 0xF1, 0x3D, 0x72, 0xBE, 0xEC, 0x20, 0x6F, 0xA3] ++
    [0xBF, 0x73, 0x3C, 0xF0, 0xA2, 0x6E, 0x21, 0xED, 0x85, 0x49, 0x06, 0xCA, 0x98, 0x54, 0x1B, 0xD7] ++
    [0x23, 0xEF, 0xA0, 0x6C, 0x3E, 0xF2, 0xBD, 0x71, 0x19, 0xD5, 0x9A, 0x56, 0x04, 0xC8, 0x87, 0x4B] ++
    [0x57, 0x9B, 0xD4, 0x18, 0x4A, 0x86, 0xC9, 0x05, 0x6D, 0xA1, 0xEE, 0x22, 0x70, 0xBC, 0xF3, 0x3F] ++
    [0x8D, 0x41, 0x0E, 0xC2, 0x90, 0x5C, 0x13, 0xDF, 0xB7, 0x7B, 0x34, 0xF8, 0xAA, 0x66, 0x29, 0xE5] ++
    [0xF9, 0x35, 0x7A, 0xB6, 0xE4, 0x28, 0x67, 0xAB, 0xC3, 0x0F, 0x40, 0x8C, 0xDE, 0x12, 0x5D, 0x91] ++
    [0x65, 0xA9, 0xE6, 0x2A, 0x78, 0xB4, 0xFB, 0x37, 0x5F, 0x93, 0xDC, 0x10, 0x42, 0x8E, 0xC1, 0x0D] ++
    [0x11, 0xDD, 0x92, 0x5E, 0x0C, 0xC0, 0x8F, 0x43, 0x2B, 0xE7, 0xA8, 0x64, 0x36, 0xFA, 0xB5, 0x79] ++
    [0x46, 0x8A, 0xC5, 0x09, 0x5B, 0x97, 0xD8, 0x14, 0x7C, 0xB0, 0xFF, 0x33, 0x61, 0xAD, 0xE2, 0x2E] ++
    [0x32, 0xFE, 0xB1, 0x7D, 0x2F, 0xE3, 0xAC, 0x60, 0x08, 0xC4, 0x8B, 0x47, 0x15, 0xD9, 0x96, 0x5A] ++
    [0xAE, 0x62, 0x2D, 0xE1, 0xB3, 0x7F, 0x30, 0xFC, 0x94, 0x58, 0x17, 0xDB, 0x89, 0x45, 0x0A, 0xC6] ++
    [0xDA, 0x16, 0x59, 0x95, 0xC7, 0x0B, 0x44, 0x88, 0xE0, 0x2C, 0x63, 0xAF, 0xFD, 0x31, 0x7E, 0xB2] : List Byte) := by
  decide +kernel

/-! ### Witnesses: states that meet the statements' hypotheses -/

/-- A standing block has the shape of its label. -/
theorem test_standing_shape (p : Point) (faults : List Bool) (bytes : List Byte) :
    BusyShape (standing p (.bounded 3) faults bytes) p := by
  cases p <;> constructor <;>
    simp [standing, offered, State.reset, testParams, pointPhase, pointSelected, pointBeforePoll,
      pollsAllowed]

/-- A standing block meets the invariants. -/
theorem test_standing_inv (p : Point) (faults : List Bool) (bytes : List Byte) :
    (standing p (.bounded 3) faults bytes).Inv :=
  ⟨.inr ⟨p, test_standing_shape p faults bytes⟩, by cases p <;> rfl,
    by simp [standing, offered, State.reset], by simp [standing, offered, State.reset]⟩

/-- An idle block that has answered an error and a result meets the invariants. -/
theorem test_offered_shape (most : PollBound) (requests : List Frame) (faults : List Bool)
    (bytes : List Byte) : IdleShape (offered most requests faults bytes) := by
  constructor <;> rfl

theorem test_offered_inv :
    ({ offered (.bounded 3) [[0x01, 0x00]] [] [] with delivered := [[0x03], [0x00, 0xFF]] } :
      State).Inv := by
  exact ⟨.inl ⟨rfl, by constructor <;> rfl⟩, rfl, by simp [offered, State.reset],
    by simp [legalResponse]⟩

theorem witness_DecodeOfEncode :
    (Instr.exec 0xFF (List.replicate 255 0xFF) 0xFF).wellFormed = true := by decide +kernel

theorem witness_EncodeOfDecode : decode [0x20, 0x01, 0x00, 0x00] = .ok (.exec 0x01 [] 0) := by decide

theorem witness_RequestLengths : decode [0x01, 0x00] = .ok (.crc []) ∧
    (encode (.exec 0x01 (List.replicate 255 0x00) 0)).length = 259 := by decide +kernel

theorem witness_OperandAssembly : ([0xAA, 0xBB] : List Byte).length = (2 : Byte).toNat ∧
    ([] : List Byte).length = (0 : Byte).toNat := by decide

theorem witness_IllFormedAnswered :
    let s := offered (.bounded 3) [[0x07]] [] []
    resetReleased s ∧ s.phase = .idle ∧ s.out = none ∧ s.requests = [0x07] :: [] ∧
      decode [0x07] = .error .unknownOpcode := by decide +kernel

/-- Each way not to fit, at its least value. -/
theorem witness_AssemblyLines : 2 ^ 16 ≤ 65536 ∧ 2 ^ 32 ≤ 4294967296 ∧
    ([0, 1, 2, 3, 4, 5] : List Nat).length ≠ 7 ∧ (∃ n ∈ [0, 1, 2, 3, 4, 5, 256], 2 ^ 8 ≤ n) ∧
    255 < (List.replicate 256 0).length ∧ 2 ^ 8 ≤ 256 := by
  simp only [List.length_replicate]; decide

theorem witness_PseudoOperations : (List.replicate 252 (0 : Byte)).length ≤ 252 ∧
    (List.replicate 255 (0 : Byte)).length ≤ 255 := by decide +kernel

theorem witness_ConfigurationReplay :
    (∀ e ∈ [((0x01 : Byte), ([0x02] : List Byte)), (0x11, List.replicate 15 0x00)],
      e.2.length ≤ 15) ∧
    ((17 : Byte) ≠ 0 ∧ 16 < (17 : Byte).toNat) ∧
    ((2 : Byte) ≠ 0 ∧ ([0x01] : List Byte).length < (2 : Byte).toNat) := by decide

theorem witness_StepRunsDecodedRequest :
    let s := { offered (.bounded 3) [[0x12, 0x00, 0x01], [0x01, 0x00]] [] [] with
      resetLine := [false, true] }
    resetReleased s ∧ s.phase = .idle ∧ s.out = none ∧
      s.requests = [0x12, 0x00, 0x01] :: [[0x01, 0x00]] ∧
      decode [0x12, 0x00, 0x01] = .ok (.pllRegs 1) := by decide +kernel

/-- A step that accepts a request, one that ends a request, one in which the host takes a response. -/
theorem witness_RequestsServedInOrder :
    (let s := offered (.bounded 3) [[0x01, 0x00]] [] [];
      (nextState (step s)).map (·.requests) = some [] ∧ s.requests ≠ []) ∧
    (let s := standing .b2 (.bounded 3) [true] [];
      s.phase ≠ .idle ∧ resetReleased s ∧ (nextState (step s)).map (·.phase) = some .idle) ∧
    (let s := { offered (.bounded 3) [[0x01, 0x00]] [] [] with out := some [0x03] };
      s.phase = .idle ∧ s.out ≠ none ∧ resetReleased s ∧
        (nextState (step s)).map (·.out) = some none ∧
        (nextState (step s)).map (·.delivered) = some [[0x03]]) := by decide +kernel

theorem witness_IdleBlockWaits :
    (let s := { offered (.bounded 3) [] [] [] with resetLine := [false] };
      resetReleased s ∧ s.phase = .idle ∧ s.out = none ∧ s.requests = []) ∧
    (let s := { offered (.bounded 3) [[0x01, 0x00]] [] [] with out := some [0x03] };
      resetReleased s ∧ s.phase = .idle ∧ s.out = some [0x03]) := by decide +kernel

theorem witness_TraceIsOneOrder :
    let s := standing .a2 (.bounded 3) [true] []
    s.out = none ∧ (nextState (step s)).map (fun t => (t.out, t.trace)) =
      some (some [0x04], [.sel, .wrErr [0x44], .desel]) := by decide +kernel

theorem witness_OnlyExecUsesTheBus :
    let s := offered (.bounded 3) [[0x11, 0x00, 0x00]] [] []
    s.phase = .idle ∧ s.cs = false ∧ (nextState (step s)).isSome = true := by decide +kernel

theorem witness_CrcAnswers : (List.replicate 255 (0 : Byte)).length ≤ 255 :=
  List.length_replicate.le

theorem witness_BuiltPacketsCheck :
    let s := offered (.bounded 3) [] [] []
    let p : Vector Byte 7 := #v[0x96, 0x53, 0x00, 0x05, 0x00, 0x2A, 0xBC]
    let q : Vector Byte 7 := #v[0x96, 0x53, 0x00, 0x05, 0x00, 0x2A, 0xBD]
    response (Sys2Proof.Machine.exec (.pktBuild 0x96530005 42) s) = some (0x00 :: p.toList) ∧
      q.toList.take 6 = p.toList.take 6 ∧ q ≠ p := by decide +kernel

/-- The identity table is a bijection with entry 0 at 0x00. -/
theorem witness_PacketResidue :
    (crcTableOf id)[0] = 0x00 ∧ Function.Bijective (crcLookup (crcTableOf id)) := by
  refine ⟨by decide +kernel, ?_⟩
  have : crcLookup (crcTableOf id) = id := by funext b; simp
  rw [this]
  exact Function.bijective_id

theorem witness_CrcIsAffine : ([0x01, 0x02] : List Byte).length = ([0x03, 0x04] : List Byte).length := by
  decide

/-- Halfway between two binary64 numbers: the even one is taken. -/
theorem witness_RoundingIsNearestEven :
    representable 9007199254740992 ∧ representable 9007199254740994 ∧
    roundEven 9007199254740993 = 9007199254740992 ∧
    |roundEven 9007199254740993 - 9007199254740993| =
      |(9007199254740994 : Rat) - 9007199254740993| ∧
    (9007199254740994 : Rat) ≠ roundEven 9007199254740993 := by
  have h : roundEven 9007199254740993 = 9007199254740992 := by decide +kernel
  refine ⟨⟨1, 53, by decide, by decide, by norm_num⟩,
    ⟨4503599627370497, 1, by decide, by decide, by norm_num⟩, h, ?_, ?_⟩
  · rw [h]; norm_num
  · rw [h]; norm_num

/-- The channels at the edges of R120's branches. -/
theorem witness_ChannelCodes : channelCode 1 = 19521 ∧ channelCode 8862 = 28382 ∧
    channelCode 8863 = 28384 ∧ channelCode 10111 = 30880 ∧ channelCode 65535 = 141728 := by decide

/-- Both ends of the channels that compute R122's values. -/
theorem witness_NoExceptionalValues : 1 ≤ (1 : Half).toNat ∧ (1 : Half).toNat ≤ 10111 ∧
    1 ≤ (10111 : Half).toNat ∧ (10111 : Half).toNat ≤ 10111 := by decide

theorem witness_FractionCheckPasses : (0 : Rat) ≤ 229 / 4 ∧ representable (229 / 4) ∧
    representable 0 :=
  ⟨by norm_num, ⟨229, -2, by decide, by decide, by norm_num⟩, ⟨0, 0, by decide, by decide, by norm_num⟩⟩

/-- Idle, and channels at the edges of the range (R125). -/
theorem witness_PllParamsAnswers :
    (offered (.bounded 3) [] [] []).phase = .idle ∧ IdleShape (offered (.bounded 3) [] [] []) ∧
    (0 : Half).toNat = 0 ∧ 10112 ≤ (10112 : Half).toNat ∧ 1 ≤ (1 : Half).toNat ∧
    (10111 : Half).toNat ≤ 10111 :=
  ⟨rfl, test_offered_shape _ _ _ _, by decide, by decide, by decide, by decide⟩

theorem witness_PllParamsClosedForm :
    1 ≤ (8863 : Half).toNat ∧ (8863 : Half).toNat ≤ 10111 ∧
    28384 = (if 8862 < (8863 : Half).toNat then 2 * (8863 : Half).toNat + 10658
      else (8863 : Half).toNat + 19520) ∧
    1009079 = 2 ^ 19 + (28384 + 16000) * 4096 / 375 := by decide

theorem witness_PllRegsClosedForm :
    1 ≤ (1 : Half).toNat ∧ (1 : Half).toNat ≤ 10111 ∧
    19521 = (if 8862 < (1 : Half).toNat then 2 * (1 : Half).toNat + 10658
      else (1 : Half).toNat + 19520) ∧
    912272 = 2 ^ 19 + (19521 + 16000) * 4096 / 375 := by decide

/-- Both clauses: an error response and a result. -/
theorem witness_PllRegsAnswers :
    let s := offered (.bounded 3) [] [] []
    s.phase = .idle ∧ response (Sys2Proof.Machine.exec (.pllParams 10112) s) = some [0x01] ∧
      response (Sys2Proof.Machine.exec (.pllParams 10111) s) =
        some [0x00, 0x38, 0x00, 0x0F, 0xD0, 0x36] := by decide +kernel

theorem witness_PllRanges : 1 ≤ (8862 : Half).toNat ∧ (8862 : Half).toNat < (8863 : Half).toNat ∧
    (8863 : Half).toNat ≤ 10111 := by decide

theorem witness_RegistersGiveTheFrequency :
    relationHz (pllInte (dividerRatio (channelCode 480))) (pllFrac (dividerRatio (channelCode 480))) =
      430000000 + 15625 / 100 * 20000 := by decide +kernel

theorem witness_OneStepOperations (cmd : Byte) (args : List Byte) (rlen : Byte) :
    (offered (.bounded 3) [] [] []).phase = .idle ∧ IdleShape (offered (.bounded 3) [] [] []) ∧
    Instr.pllRegs 1 ≠ .exec cmd args rlen :=
  ⟨rfl, test_offered_shape _ _ _ _, by simp⟩

theorem witness_StepRunsSequencer :
    let s := standing .b2 (.bounded 3) [] []
    resetReleased s ∧ s.phase ≠ .idle ∧ s.point = some .b2 := by decide +kernel

/-- The poll that reads ready, the one after which another is allowed, and the last one allowed. -/
theorem witness_ReadinessPoll :
    (let s := standing .a1 (.bounded 3) [false, false] [0xFF];
      s.resetLine = [] ∧ s.phase = .execPre ∧ s.point = some .a1 ∧
        s.oracle = ⟨false :: false :: [], 0xFF :: [], 0⟩ ∧ s.polls = 0) ∧
    pollsAllowed (testParams (.bounded 3)) (0 + 2) ∧
    ¬ pollsAllowed (testParams (.bounded 1)) (0 + 2) := by
  refine ⟨by decide +kernel, ?_, ?_⟩ <;> simp [pollsAllowed, testParams]

/-- E5 and E7, with no response due; the wait before the command with one due; the wait before it. -/
theorem witness_ReadinessWaitIsBounded :
    (allNotReady [0x00, 0x00] ∧ allNotReady [] ∧ (0x7F : Byte) ≠ 0xFF) ∧
    (let s := offered (.bounded 3) [] (List.replicate 6 false) [0x00, 0x00, 0x00];
      s.resetLine = [] ∧ s.params.ctsMaxPolls = .bounded 3 ∧
        ([0x00, 0x00] : List Byte).length + 1 = ((3 : PNat) : Nat) ∧
        s.oracle.bytes = [0x00, 0x00] ++ 0x00 :: [] ∧
        s.oracle.faults = List.replicate (2 * ((3 : PNat) : Nat)) false ++ [] ∧
        (nextState (Sys2Proof.Machine.exec (.exec 0x01 [] 0) s)).isSome = true ∧
        (nextState (Sys2Proof.Machine.exec (.exec 0x01 [] 8) s)).isSome = true) ∧
    (let s := offered (.bounded 1) [] [false, false] [0x7F];
      s.params.ctsMaxPolls = .bounded 1 ∧ ([] : List Byte).length + 1 = ((1 : PNat) : Nat) ∧
        s.oracle.bytes = [] ++ 0x7F :: [] ∧
        s.oracle.faults = List.replicate (2 * ((1 : PNat) : Nat)) false ++ [] ∧
        (nextState (Sys2Proof.Machine.exec (.exec 0x01 [] 0) s)).isSome = true) ∧
    (let s := offered (.bounded 3) [] (List.replicate 9 false) [0xFF, 0x00, 0x00, 0x7F];
      (8 : Byte) ≠ 0 ∧ ([] : List Byte).length + 1 ≤ ((3 : PNat) : Nat) ∧
        s.oracle.bytes = [] ++ 0xFF :: [0x00, 0x00] ++ 0x7F :: [] ∧
        s.oracle.faults =
          List.replicate (2 * ([] : List Byte).length + 3 + 2 * ((3 : PNat) : Nat)) false ++ []) :=
  ⟨by simp [allNotReady], by decide +kernel, by decide +kernel, by decide +kernel⟩

theorem witness_ResponseInTheSameSpan :
    (let s := standing .c1 (.bounded 3) [false, false, false] [0xFF, 0x11, 0x22];
      s.resetLine = [] ∧ s.phase = .execResp ∧ s.point = some .c1 ∧ s.rlen = some 2 ∧
        ([0x11, 0x22] : List Byte).length = (2 : Byte).toNat ∧
        s.oracle = ⟨false :: false :: false :: [], 0xFF :: [0x11, 0x22] ++ [], 0⟩) ∧
    (let s := standing .c1 (.bounded 3) [false, false] [0x80];
      (0x80 : Byte) ≠ 0xFF ∧ s.oracle = ⟨false :: false :: [], 0x80 :: [], 0⟩ ∧ s.polls = 0) := by
  decide +kernel

/-- E4 with a response, E2 without one. -/
theorem witness_ExecCompletes :
    allNotReady [] ∧ allNotReady [0x00, 0x00] ∧
    pollsAllowed (testParams (.bounded 3)) (([0x00, 0x00] : List Byte).length + 1) ∧
    (let s := offered (.bounded 3) [] (List.replicate 10 false) [0xFF, 0x00, 0x00, 0xFF, 0x11];
      s.resetLine = [] ∧ (1 : Byte) ≠ 0 ∧ ([0x11] : List Byte).length = (1 : Byte).toNat ∧
        s.oracle.bytes = [] ++ 0xFF :: [0x00, 0x00] ++ 0xFF :: [0x11] ++ [] ∧
        s.oracle.faults = List.replicate (2 * ([] : List Byte).length +
          2 * ([0x00, 0x00] : List Byte).length + 6) false ++ []) ∧
    (let s := offered (.bounded 3) [] (List.replicate 7 false) [0x00, 0x00, 0xFF];
      s.resetLine = [] ∧ ([] : List Byte).length = (0 : Byte).toNat ∧
        s.oracle.bytes = [0x00, 0x00] ++ 0xFF :: [] ∧
        s.oracle.faults =
          List.replicate (2 * ([0x00, 0x00] : List Byte).length + 3) false ++ []) := by
  refine ⟨by simp [allNotReady], by simp [allNotReady], by simp [pollsAllowed, testParams], ?_, ?_⟩
  · decide +kernel
  · decide +kernel

/-- A run to the first state in which the response stands: without a response (E1), with one (E3). -/
theorem witness_SuccessfulExecTrace :
    (let s := offered (.bounded 3) [] [false, false, false] [0xFF];
      s.out = none ∧ s.resetLine = [] ∧
      ((nextState (Sys2Proof.Machine.exec (.exec 0x01 [] 0) s)).bind fun s1 =>
        nextState (Host.Core.run Sys2Proof.core 7 s1)).map
          (fun t => (t.phase, t.delivered, t.out)) = some (.idle, s.delivered, some [0x00])) ∧
    (let s := offered (.bounded 3) [] (List.replicate 6 false) [0xFF, 0xFF, 0x11];
      s.out = none ∧ s.resetLine = [] ∧
      ((nextState (Sys2Proof.Machine.exec (.exec 0x12 [0x40] 1) s)).bind fun s1 =>
        nextState (Host.Core.run Sys2Proof.core 12 s1)).map
          (fun t => (t.phase, t.delivered, t.out)) = some (.idle, s.delivered, some [0x00, 0x11])) := by
  decide +kernel

/-- E7: the wait before the command fails; and the wait before the response. -/
theorem witness_NotRespondingTrace :
    (let s := offered (.bounded 1) [] [false, false] [0x7F];
      s.out = none ∧ s.resetLine = [] ∧
      ((nextState (Sys2Proof.Machine.exec (.exec 0x01 [] 0) s)).bind fun s1 =>
        nextState (Host.Core.run Sys2Proof.core 4 s1)).map
          (fun t => (t.phase, t.delivered, t.out)) = some (.idle, s.delivered, some [0x03])) ∧
    (let s := offered (.bounded 1) [] (List.replicate 5 false) [0xFF, 0x7F];
      s.out = none ∧ s.resetLine = [] ∧
      ((nextState (Sys2Proof.Machine.exec (.exec 0x01 [] 1) s)).bind fun s1 =>
        nextState (Host.Core.run Sys2Proof.core 11 s1)).map
          (fun t => (t.phase, t.delivered, t.out)) = some (.idle, s.delivered, some [0x03])) := by
  decide +kernel

/-- At every label whose primitive can fail. -/
theorem witness_BusErrorEndsExec (p : Point) (_ : p ∈ [.a2, .a3, .b2, .c2, .c3, .c4]) :
    (standing p (.bounded 3) [true] []).Inv ∧ resetReleased (standing p (.bounded 3) [true] []) ∧
    BusyShape (standing p (.bounded 3) [true] []) p ∧
    (drawFault (standing p (.bounded 3) [true] []).oracle).1 = true :=
  ⟨test_standing_inv p _ _, by simp [standing, offered, State.reset, resetReleased],
    test_standing_shape p _ _, rfl⟩

theorem witness_UnboundedWaitGoesOn :
    allNotReady [0x00] ∧ 5 ≤ 5 * ([0x00] : List Byte).length ∧
    (let s := standing .a1 .unbounded [false, false] [0x00];
      s.params.ctsMaxPolls = .unbounded ∧ s.resetLine = [] ∧ s.out = none ∧
        s.oracle.bytes = [0x00] ∧
        s.oracle.faults = List.replicate (2 * ([0x00] : List Byte).length) false ∧
        s.phase = .execPre ∧ s.point = some .a1) ∧
    (let s := standing .c1 .unbounded [false, false] [0x00];
      s.phase = .execResp ∧ s.point = some .c1) := by
  refine ⟨by simp [allNotReady], by decide, ?_, ?_⟩ <;> decide +kernel

theorem witness_ThreePollExample :
    pollsAllowed (testParams (.bounded 3)) 3 ∧
    (let s := offered (.bounded 3) [] (List.replicate 7 false) [0x00, 0x00, 0xFF];
      s.resetLine = [] ∧ s.trace = [] ∧ s.params.opReadCmdBuff = 0x44 ∧
        s.oracle.bytes = 0x00 :: 0x00 :: 0xFF :: [] ∧
        s.oracle.faults = List.replicate 7 false ++ [] ∧
        (nextState (Sys2Proof.Machine.exec (.exec 0x01 [] 0) s)).isSome = true) := by
  refine ⟨by simp [pollsAllowed, testParams], ?_⟩
  decide +kernel

theorem witness_IdleIsAsAfterReset :
    let s : State := { offered (.bounded 3) [[0x01, 0x00]] [] [] with
      delivered := [[0x03], [0x00, 0xFF]] }
    s.Inv ∧ s.phase = .idle ∧ s.out = none :=
  ⟨test_offered_inv, rfl, rfl⟩

theorem witness_ResetAbandonsRequest :
    ({ standing .c4 (.bounded 3) [] [] with resetLine := [true, false] } : State).resetLine =
      true :: [false] := by decide +kernel

theorem witness_ParametersNeverChange :
    (nextState (Host.Core.run Sys2Proof.core 2 (offered (.bounded 3) [[0x01, 0x00]] [] []))).isSome =
      true := by decide +kernel

/-- A state that meets the invariants, and its step. -/
theorem witness_StepKeepsInvariants :
    (standing .b2 (.bounded 3) [false] []).Inv ∧
    (nextState (step (standing .b2 (.bounded 3) [false] []))).isSome = true :=
  ⟨test_standing_inv .b2 _ _, by decide +kernel⟩

theorem witness_NoRunStops : (standing .c5 (.bounded 3) [] []).Inv := test_standing_inv .c5 _ _

theorem witness_ExecTerminates :
    let s : State := { offered (.bounded 3) [[0x01, 0x00]] [] [] with
      delivered := [[0x03], [0x00, 0xFF]] }
    s.Inv ∧ s.phase = .idle ∧ s.out = none ∧ s.resetLine = [] ∧
      s.params.ctsMaxPolls = .bounded 3 ∧ ([] : List Byte).length ≤ 255 ∧
      (nextState (Sys2Proof.Machine.exec (.exec 0x01 [] 0) s)).isSome = true :=
  ⟨test_offered_inv, rfl, rfl, rfl, rfl, by decide, rfl⟩

end Sys2Proof.Tests
end

section
/-! ### The state after reset (10_state.md R31)

One lemma for each field of R26's record after reset and one for the parameters, so that no later proof
unfolds `State.reset`. -/

namespace Sys2Proof.Machine

@[simp] theorem State.reset_params : State.reset.params = Config.params := rfl
@[simp] theorem State.reset_phase : State.reset.phase = .idle := rfl
@[simp] theorem State.reset_point : State.reset.point = none := rfl
@[simp] theorem State.reset_polls : State.reset.polls = 0 := rfl
@[simp] theorem State.reset_cs : State.reset.cs = false := rfl
@[simp] theorem State.reset_cts : State.reset.cts = none := rfl
@[simp] theorem State.reset_cmd : State.reset.cmd = none := rfl
@[simp] theorem State.reset_args : State.reset.args = none := rfl
@[simp] theorem State.reset_rlen : State.reset.rlen = none := rfl
@[simp] theorem State.reset_resp : State.reset.resp = none := rfl
@[simp] theorem State.reset_out : State.reset.out = none := rfl

/-- Settles O51: R31's table row by row, its last row split into R6's OPEN parameters, which are those
given, and the fixed ones, whose values are closed numerals. -/
theorem resetState : Obligations.ResetState := by
  refine ⟨State.reset_phase, State.reset_point, State.reset_polls, State.reset_cs, State.reset_cts,
    State.reset_cmd, State.reset_args, State.reset_rlen, State.reset_resp, State.reset_out,
    State.reset_params, ?fixedParameters⟩
  case fixedParameters => decide

end Sys2Proof.Machine
end

section
/-! ### The host port in one step (20_memory.md R44)

What the running of a request leaves alone at the host port, first for an operation that is accepted, then
for every label of the sequencer. -/

namespace Sys2Proof.Machine

/-- `t` comes after `s` within one request: the waiting requests and the delivered responses are as they
were, and the request is answered in `s.out` or still in progress. -/
structure ServesRequest (s t : State) : Prop where
  requests : t.requests = s.requests
  delivered : t.delivered = s.delivered
  answeredOrBusy : t.out ≠ none ∨ t.phase ≠ .idle

/-! #### The ways to go on with a request -/

theorem servesRequest_respond (frame : Frame) (s : State) : ServesRequest s (respond frame s) :=
  ⟨rfl, rfl, .inl (Option.some_ne_none frame)⟩

theorem servesRequest_finish (frame : Frame) {s u : State} (hq : u.requests = s.requests)
    (hd : u.delivered = s.delivered) : ServesRequest s (finish frame u) :=
  ⟨hq, hd, .inl (Option.some_ne_none frame)⟩

theorem servesRequest_abort (e : BlockError) {s u : State} (hq : u.requests = s.requests)
    (hd : u.delivered = s.delivered) : ServesRequest s (abort e u) :=
  ⟨by rw [abort_requests, hq], by rw [abort_delivered, hd], .inl (by simp)⟩

/-- A bus call that can fail: the abort serves the request whatever the oracle says. -/
theorem servesRequest_abort_or (fails : Bool) (e : BlockError) {s u v : State}
    (hq : u.requests = s.requests) (hd : u.delivered = s.delivered) (hv : ServesRequest s v) :
    ServesRequest s (if fails then abort e u else v) := by
  cases fails with
  | true => exact servesRequest_abort e hq hd
  | false => exact hv

theorem servesRequest_pollAgain (sleep : Point) {s u : State} (hq : u.requests = s.requests)
    (hd : u.delivered = s.delivered) (hp : u.phase ≠ .idle) :
    ServesRequest s (pollAgain sleep u) :=
  servesRequest_abort_or (boundReached u) .deviceNotResponding hq hd ⟨hq, hd, .inr hp⟩

theorem servesRequest_pollAsk (next : Point) {s : State} (hp : s.phase ≠ .idle) :
    ServesRequest s (pollAsk next s) := by
  rw [pollAsk_eq]
  exact servesRequest_abort_or _ _ rfl rfl ⟨rfl, rfl, .inr hp⟩

/-! #### Accepting a request -/

/-- Every operation answers, or is an `EXEC` that begins. -/
theorem exec_servesRequest {i : Instr} {s t : State} (h : exec i s = .next t) :
    ServesRequest s t := by
  cases i with
  | crc data => cases h; exact servesRequest_respond _ s
  | pktBuild opcode channel => cases h; exact servesRequest_respond _ s
  | pktCheck packet => cases h; exact servesRequest_respond _ s
  | pllFreq channel => cases h; exact servesRequest_respond _ s
  | pllParams channel =>
    simp only [exec, execPllParams] at h
    split at h
    · cases h; exact servesRequest_respond _ s
    · cases h; exact servesRequest_abort _ rfl rfl
  | pllRegs channel =>
    simp only [exec, execPllRegs] at h
    split at h
    · cases h; exact servesRequest_respond _ s
    · cases h; exact servesRequest_abort _ rfl rfl
  | exec cmd args rlen => cases h; exact ⟨rfl, rfl, .inr Phase.noConfusion⟩

/-- So does every request: an ill-formed one is answered (R69). -/
theorem acceptRequest_servesRequest {f : Frame} {s t : State}
    (h : acceptRequest f s = .next t) : ServesRequest s t := by
  cases hd : decode f with
  | ok i => exact exec_servesRequest (acceptRequest_ok f i s hd ▸ h)
  | error e =>
    rw [acceptRequest_illFormed f e s hd] at h
    cases h
    exact servesRequest_respond _ s

/-! #### A request in progress -/

/-- Every label goes on with the request or answers it: `finish` and `abort` are the only ways back to
`IDLE`, and both fill `s.out`. -/
theorem runPoint_servesRequest {p : Point} {s t : State} (hp : s.phase ≠ .idle)
    (h : runPoint p s = .next t) : ServesRequest s t := by
  cases p with
  | a1 | a5 | b1 | c1 | c7 => cases h; exact ⟨rfl, rfl, .inr hp⟩
  | a2 | c2 => cases h; exact servesRequest_pollAsk _ hp
  | a3 =>
    cases (seqA3_eq s).symm.trans h
    exact servesRequest_abort_or _ _ rfl rfl ⟨rfl, rfl, .inr hp⟩
  | c3 =>
    cases (seqC3_eq s).symm.trans h
    exact servesRequest_abort_or _ _ rfl rfl ⟨rfl, rfl, .inr hp⟩
  | a4 =>
    cases hc : s.cts with
    | none => simp [runPoint, seqA4, hc] at h
    | some b =>
      cases (seqA4_eq s b hc).symm.trans h
      split
      · exact ⟨rfl, rfl, .inr Phase.noConfusion⟩
      · exact servesRequest_pollAgain .a5 rfl rfl hp
  | b2 =>
    cases hc : s.cmd with
    | none => simp [runPoint, seqB2, hc] at h
    | some cmd =>
      cases ha : s.args with
      | none => simp [runPoint, seqB2, hc, ha] at h
      | some args =>
        cases (seqB2_eq s cmd args hc ha).symm.trans h
        exact servesRequest_abort_or _ _ rfl rfl ⟨rfl, rfl, .inr hp⟩
  | b3 =>
    cases hr : s.rlen with
    | none => simp [runPoint, seqB3, hr] at h
    | some rlen =>
      cases (seqB3_eq s rlen hr).symm.trans h
      split
      · exact servesRequest_finish _ rfl rfl
      · exact ⟨rfl, rfl, .inr Phase.noConfusion⟩
  | c4 =>
    cases hr : s.rlen with
    | none => simp [runPoint, seqC4, hr] at h
    | some rlen =>
      cases (seqC4_eq s rlen hr).symm.trans h
      exact servesRequest_abort_or _ _ rfl rfl ⟨rfl, rfl, .inr hp⟩
  | c5 =>
    cases hr : s.resp with
    | none => simp [runPoint, seqC5, hr] at h
    | some resp =>
      cases (seqC5_eq s resp hr).symm.trans h
      exact servesRequest_finish _ rfl rfl
  | c6 => cases h; exact servesRequest_pollAgain .c7 rfl rfl hp

/-- Settles O13, by the ways a step can go: only the acceptance takes from the waiting requests and only
the host's taking adds to the delivered responses; a request that is accepted or in progress is served
(`ServesRequest`), and so answered when the block is idle again. -/
theorem requestsServedInOrder : Obligations.RequestsServedInOrder := by
  intro s t h
  obtain ⟨rest, hl, rfl⟩ | ⟨-, hp, f, ho, rfl⟩ | ⟨-, hp, ho, -, rfl⟩ |
    ⟨hr, hp, ho, f, rest, hq, hacc⟩ | ⟨-, hp, p, -, hrun⟩ := step_cases h
  · -- reset
    have asserted : ¬ resetReleased s := by simp [resetReleased, hl]
    refine ⟨.inl (by simp), fun hne => absurd (by simp) hne, ?_, ?_, .inl (by simp)⟩
    · exact fun _ _ hr => absurd hr asserted
    · exact fun _ _ _ _ hr => absurd hr asserted
  · -- the host takes the response
    refine ⟨.inl rfl, fun hne => absurd rfl hne, fun hb => absurd hp hb, ?_, .inr ?_⟩
    · intro g hg _ _ _
      rw [Option.some.inj (hg.symm.trans ho)]
      rfl
    · exact ⟨f, ho, rfl, rfl, rfl⟩
  · -- the block waits
    exact ⟨.inl rfl, fun hne => absurd rfl hne, fun hb => absurd hp hb,
      fun _ _ hne => absurd rfl hne, .inl rfl⟩
  · -- a request is accepted
    obtain ⟨requests, delivered, served⟩ := acceptRequest_servesRequest hacc
    refine ⟨.inr ⟨f, ?_, hp, ho, hr⟩, fun _ => served, fun hb => absurd hp hb, ?_, .inl delivered⟩
    · rw [hq, requests]
    · intro g hg
      exact absurd (ho.symm.trans hg) (Option.some_ne_none g).symm
  · -- a request in progress goes on
    obtain ⟨requests, delivered, served⟩ := runPoint_servesRequest (s := tick s) hp hrun
    refine ⟨.inl requests, fun hne => absurd requests hne, ?_, ?_, .inl delivered⟩
    · exact fun _ hidle _ => served.resolve_right (not_not_intro hidle)
    · exact fun _ _ _ hidle => absurd hidle hp

end Sys2Proof.Machine
end

section
/-! ### Well-formed frames (30_encoding.md R61 to R65, R69)

The operation codes of R61's table, what each format's decoder accepts (R62), and the decoder as a whole: a
frame decodes exactly when it has the length R63 requires of it. -/

namespace Sys2Proof

open Machine

/-! #### Operation codes (R61) -/

/-- A byte outside R61's table reads as no operation. -/
theorem opcodeOf_eq_none_iff (b : Byte) :
    opcodeOf b = none ↔ b ∉ [0x01, 0x02, 0x03, 0x10, 0x11, 0x12, 0x20] := by
  constructor
  · intro h hmem
    simp only [List.mem_cons, List.not_mem_nil, or_false] at hmem
    obtain rfl | rfl | rfl | rfl | rfl | rfl | rfl := hmem <;> cases h
  · intro h
    simp only [List.mem_cons, List.not_mem_nil, or_false, not_or] at h
    obtain ⟨h1, h2, h3, h4, h5, h6, h7⟩ := h
    simp only [opcodeOf, if_neg h1, if_neg h2, if_neg h3, if_neg h4, if_neg h5, if_neg h6, if_neg h7]

/-- The three ways a frame can start, which `decode` and `requiredLength` both tell apart first. -/
theorem frame_cases (f : Frame) :
    f = [] ∨ (∃ opc ops, f = opc :: ops ∧ opcodeOf opc = none) ∨
      ∃ o ops, f = opcodeByte o :: ops := by
  rcases f with _ | ⟨opc, ops⟩
  · exact .inl rfl
  · cases h : opcodeOf opc with
    | none => exact .inr (.inl ⟨opc, ops, rfl, h⟩)
    | some o => exact .inr (.inr ⟨o, ops, by rw [opcodeByte_of_opcodeOf h]⟩)

theorem decode_unknownOpcode {opc : Byte} (h : opcodeOf opc = none) (ops : List Byte) :
    decode (opc :: ops) = .error .unknownOpcode := by
  simp only [decode, h]

theorem requiredLength_unknownOpcode {opc : Byte} (h : opcodeOf opc = none) (ops : List Byte) :
    requiredLength (opc :: ops) = .error .unknownOpcode := by
  simp only [requiredLength, h]

/-! #### What each format's decoder accepts (R62) -/

theorem decodeData_accepts_iff (len : Byte) (data : List Byte) :
    (∃ i, decodeData (len :: data) = .ok i) ↔ data.length = len.toNat := by
  by_cases h : data.length = len.toNat <;> simp [decodeData, h]

theorem decodeOpch_accepts_iff (ops : List Byte) :
    (∃ i, decodeOpch ops = .ok i) ↔ ops.length = 6 := by
  refine ⟨fun ⟨_, accepted⟩ => ?_, fun h => match ops, h with | [_, _, _, _, _, _], _ => ⟨_, rfl⟩⟩
  unfold decodeOpch at accepted
  split at accepted
  · rfl
  · cases accepted

theorem decodePkt_accepts_iff (ops : List Byte) :
    (∃ i, decodePkt ops = .ok i) ↔ ops.length = 7 := by
  refine ⟨fun ⟨_, accepted⟩ => ?_, fun h => match ops, h with | [_, _, _, _, _, _, _], _ => ⟨_, rfl⟩⟩
  unfold decodePkt at accepted
  split at accepted
  · rfl
  · cases accepted

theorem decodeCh_accepts_iff (mk : Half → Instr) (ops : List Byte) :
    (∃ i, decodeCh mk ops = .ok i) ↔ ops.length = 2 := by
  refine ⟨fun ⟨_, accepted⟩ => ?_, fun h => match ops, h with | [_, _], _ => ⟨_, rfl⟩⟩
  unfold decodeCh at accepted
  split at accepted
  · rfl
  · cases accepted

/-- `F-EXEC` accepts when one byte, `RLEN`, is left behind the arguments. -/
theorem decodeExec_accepts_iff (cmd nargs : Byte) (tail : List Byte) :
    (∃ i, decodeExec (cmd :: nargs :: tail) = .ok i) ↔ tail.length = nargs.toNat + 1 := by
  have rlenLeft : tail.length = nargs.toNat + 1 ↔ (tail.drop nargs.toNat).length = 1 := by
    rw [List.length_drop]
    omega
  rw [rlenLeft]
  simp only [decodeExec]
  rcases tail.drop nargs.toNat with _ | ⟨rlen, _ | ⟨extra, more⟩⟩ <;> simp

/-! #### The decoder against R63's required length -/

/-- R63: a frame is well formed exactly when its length is the one read from its first bytes. -/
theorem decode_accepts_iff (f : Frame) :
    (∃ i, decode f = .ok i) ↔ requiredLength f = .ok f.length := by
  obtain rfl | ⟨opc, ops, rfl, hopc⟩ | ⟨o, ops, rfl⟩ := frame_cases f
  · simp [decode, requiredLength]
  · simp [decode_unknownOpcode hopc, requiredLength_unknownOpcode hopc]
  · rw [requiredLength_cons]
    simp only [decode, opcodeOf_opcodeByte, List.length_cons]
    have sameLength (k : Nat) : ops.length = k ↔
        (.ok (k + 1) : Except IllFormed Nat) = .ok (ops.length + 1) := by
      rw [Except.ok.injEq]
      omega
    cases o with
    | crc =>
      cases ops with
      | nil => simp [decodeData]
      | cons len data =>
        simp only [decodeData_accepts_iff, Except.ok.injEq, List.length_cons]
        omega
    | pktBuild => exact (decodeOpch_accepts_iff ops).trans (sameLength 6)
    | pktCheck => exact (decodePkt_accepts_iff ops).trans (sameLength 7)
    | pllFreq => exact (decodeCh_accepts_iff _ ops).trans (sameLength 2)
    | pllParams => exact (decodeCh_accepts_iff _ ops).trans (sameLength 2)
    | pllRegs => exact (decodeCh_accepts_iff _ ops).trans (sameLength 2)
    | exec =>
      rcases ops with _ | ⟨cmd, _ | ⟨nargs, tail⟩⟩
      · simp [decodeExec]
      · simp [decodeExec]
      · simp only [decodeExec_accepts_iff, Except.ok.injEq, List.length_cons]
        omega

/-- A frame is refused when no length can be read from it, or when its length is another one. -/
theorem decode_refuses_iff (f : Frame) :
    (∃ e, decode f = .error e) ↔
      (∃ e, requiredLength f = .error e) ∨
        ∃ n, requiredLength f = .ok n ∧ f.length ≠ n := by
  have refused : (∃ e, decode f = .error e) ↔ ¬ ∃ i, decode f = .ok i := by
    cases decode f <;> simp
  rw [refused, decode_accepts_iff]
  cases requiredLength f <;> simp [eq_comm]

/-- R63's required lengths, by operation. -/
theorem requiredLength_eq_ok_iff (f : Frame) (n : Nat) :
    requiredLength f = .ok n ↔
      (∃ len rest, f = 0x01 :: len :: rest ∧ n = 2 + len.toNat) ∨
      (∃ rest, f = 0x02 :: rest ∧ n = 7) ∨
      (∃ rest, f = 0x03 :: rest ∧ n = 8) ∨
      (∃ opc rest, f = opc :: rest ∧ (opc = 0x10 ∨ opc = 0x11 ∨ opc = 0x12) ∧ n = 3) ∨
      (∃ cmd nargs rest, f = 0x20 :: cmd :: nargs :: rest ∧ n = 4 + nargs.toNat) := by
  constructor
  · intro h
    obtain rfl | ⟨opc, ops, rfl, hopc⟩ | ⟨o, ops, rfl⟩ := frame_cases f
    · cases h
    · rw [requiredLength_unknownOpcode hopc] at h
      cases h
    · rw [requiredLength_cons] at h
      cases o with
      | crc =>
        rcases ops with _ | ⟨len, rest⟩ <;> cases h
        exact .inl ⟨len, rest, rfl, rfl⟩
      | pktBuild => cases h; exact .inr (.inl ⟨ops, rfl, rfl⟩)
      | pktCheck => cases h; exact .inr (.inr (.inl ⟨ops, rfl, rfl⟩))
      | pllFreq => cases h; exact .inr (.inr (.inr (.inl ⟨_, ops, rfl, .inl rfl, rfl⟩)))
      | pllParams => cases h; exact .inr (.inr (.inr (.inl ⟨_, ops, rfl, .inr (.inl rfl), rfl⟩)))
      | pllRegs => cases h; exact .inr (.inr (.inr (.inl ⟨_, ops, rfl, .inr (.inr rfl), rfl⟩)))
      | exec =>
        rcases ops with _ | ⟨cmd, _ | ⟨nargs, rest⟩⟩ <;> cases h
        exact .inr (.inr (.inr (.inr ⟨cmd, nargs, rest, rfl, rfl⟩)))
  · rintro (⟨len, rest, rfl, rfl⟩ | ⟨rest, rfl, rfl⟩ | ⟨rest, rfl, rfl⟩ |
      ⟨opc, rest, rfl, rfl | rfl | rfl, rfl⟩ | ⟨cmd, nargs, rest, rfl, rfl⟩) <;> rfl

/-- The first three of R69's cases: the frames no length can be read from. -/
theorem requiredLength_eq_error_iff (f : Frame) :
    (∃ e, requiredLength f = .error e) ↔
      f = [] ∨
      (∃ opc rest, f = opc :: rest ∧ opc ∉ [0x01, 0x02, 0x03, 0x10, 0x11, 0x12, 0x20]) ∨
      f = [0x01] ∨ f = [0x20] ∨ (∃ cmd, f = [0x20, cmd]) := by
  constructor
  · rintro ⟨e, h⟩
    obtain rfl | ⟨opc, ops, rfl, hopc⟩ | ⟨o, ops, rfl⟩ := frame_cases f
    · exact .inl rfl
    · exact .inr (.inl ⟨opc, ops, rfl, (opcodeOf_eq_none_iff opc).mp hopc⟩)
    · rw [requiredLength_cons] at h
      cases o with
      | crc =>
        rcases ops with _ | ⟨len, rest⟩ <;> cases h
        exact .inr (.inr (.inl rfl))
      | exec =>
        rcases ops with _ | ⟨cmd, _ | ⟨nargs, rest⟩⟩ <;> cases h
        · exact .inr (.inr (.inr (.inl rfl)))
        · exact .inr (.inr (.inr (.inr ⟨cmd, rfl⟩)))
      | pktBuild | pktCheck | pllFreq | pllParams | pllRegs => cases h
  · rintro (rfl | ⟨opc, rest, rfl, hopc⟩ | rfl | rfl | ⟨cmd, rfl⟩)
    · exact ⟨_, rfl⟩
    · exact ⟨_, requiredLength_unknownOpcode ((opcodeOf_eq_none_iff opc).mpr hopc) rest⟩
    · exact ⟨_, rfl⟩
    · exact ⟨_, rfl⟩
    · exact ⟨_, rfl⟩

/-- Settles O3: a frame decodes exactly when its length is the required one (`decode_accepts_iff`), which
R63 gives operation by operation. -/
theorem wellFormedFrames : Obligations.WellFormedFrames := fun f =>
  (decode_accepts_iff f).trans (requiredLength_eq_ok_iff f f.length)

/-- Settles O8: no length can be read from the frame (R69's first three cases), or its length is below or
above the required one (the other two); the step that accepts such a request answers `[0x05]`. -/
theorem illFormedAnswered : Obligations.IllFormedAnswered := by
  refine ⟨fun f => ?fiveCases, fun s f rest e hr hp ho hq hf => ?answered⟩
  case fiveCases =>
    simp only [decode_refuses_iff, requiredLength_eq_error_iff, ne_iff_lt_or_gt, and_or_left, exists_or,
      or_assoc]
  case answered =>
    rw [step_accept s f rest hr hp ho hq, acceptRequest_illFormed f e _ hf]
    rfl

/-! #### The operands (R64) -/

theorem decode_crc {len : Byte} {data : List Byte} (h : data.length = len.toNat) :
    decode (0x01 :: len :: data) = .ok (.crc data) :=
  if_pos h

theorem decode_exec (cmd rlen : Byte) {nargs : Byte} {args : List Byte}
    (h : args.length = nargs.toNat) :
    decode (0x20 :: cmd :: nargs :: (args ++ [rlen])) = .ok (.exec cmd args rlen) := by
  change decodeExec (cmd :: nargs :: (args ++ [rlen])) = _
  simp [decodeExec, ← h]

theorem decode_pktCheck (packet : Vector Byte 7) :
    decode (0x03 :: packet.toList) = .ok (.pktCheck packet) := by
  obtain ⟨⟨bytes⟩, h⟩ := packet
  match bytes, h with
  | [_, _, _, _, _, _, _], _ => rfl

/-- Settles O6: a fixed format's operands are read off by definition, and R64's formulas are the values of
`ofBe32` and `ofBe16`; the formats with a length byte take as many bytes as it says. -/
theorem operandAssembly : Obligations.OperandAssembly := by
  refine ⟨fun o3 o2 o1 o0 c1 c0 => ?_, fun c1 c0 => ?_, fun _ _ => decode_crc, decode_pktCheck,
    fun cmd _ rlen _ => decode_exec cmd rlen⟩
  · exact ⟨_, _, rfl, ofBe32_toNat o3 o2 o1 o0, ofBe16_toNat c1 c0⟩
  · exact ⟨_, ofBe16_toNat c1 c0, rfl, rfl, rfl⟩

end Sys2Proof
end

section
/-! ### Assembly operands and pseudo-operations (30_encoding.md R70, R71)

An operand that fits its field is taken as it is. -/

namespace Sys2Proof.Machine

@[simp] theorem asmByte_toNat (b : Byte) : asmByte b.toNat = some b := by
  simp [asmByte, b.isLt]

theorem mapM_asmByte_toNat (bs : List Byte) : (bs.map BitVec.toNat).mapM asmByte = some bs := by
  induction bs with
  | nil => rfl
  | cons b bs ih => simp [ih]

theorem asmBytes_toNat {bs : List Byte} (h : bs.length ≤ 255) :
    asmBytes (bs.map BitVec.toNat) = some bs := by
  rw [asmBytes, if_pos (by rwa [List.length_map]), mapM_asmByte_toNat]

theorem asmSend_toNat (cmd : Byte) {as : List Byte} (h : as.length ≤ 255) :
    asmSend [.num cmd.toNat, .bytes (as.map BitVec.toNat)] = some (sendRequest cmd as) := by
  simp [asmSend, asmBytes_toNat h]

theorem asmCrc6_toNat (d0 d1 d2 d3 d4 d5 : Byte) :
    asmCrc6 [.num d0.toNat, .num d1.toNat, .num d2.toNat, .num d3.toNat, .num d4.toNat, .num d5.toNat] =
      some (.crc [d0, d1, d2, d3, d4, d5]) := by
  have fits : asmBytes ([d0, d1, d2, d3, d4, d5].map BitVec.toNat) = some [d0, d1, d2, d3, d4, d5] :=
    asmBytes_toNat (by simp)
  exact congrArg (Option.map Instr.crc) fits

theorem asmSetProp_toNat (ops : HostOpcodes) (grp idx : Byte) {ds : List Byte} (h : ds.length ≤ 252) :
    asmSetProp ops [.num grp.toNat, .num idx.toNat, .bytes (ds.map BitVec.toNat)] =
      some (setPropRequest ops grp idx ds) := by
  have count : (BitVec.ofNat 8 ds.length).toNat = ds.length := by
    rw [BitVec.toNat_ofNat]
    omega
  have header : asmBytes [grp.toNat, ds.length, idx.toNat] =
      some [grp, BitVec.ofNat 8 ds.length, idx] := by
    have fits := asmBytes_toNat (bs := [grp, BitVec.ofNat 8 ds.length, idx]) (by simp)
    simpa [count] using fits
  have room : 3 + ds.length ≤ 255 := by omega
  have data : asmBytes (ds.map BitVec.toNat) = some ds := asmBytes_toNat (by omega)
  simp [asmSetProp, header, data, room]

theorem asmGetProp_toNat (ops : HostOpcodes) (grp idx m : Byte) :
    asmGetProp ops [.num grp.toNat, .num idx.toNat, .num m.toNat] =
      some (getPropRequest ops grp idx m) := by
  simp [asmGetProp]

/-- Settles O10: the mnemonic picks the pseudo-operation's row of `asmTable`, whose operands fit their
fields, and R71's expansion is the request's definition. -/
theorem pseudoOperations : Obligations.PseudoOperations := fun ops =>
  ⟨asmCrc6_toNat, fun cmd _ h => asmSend_toNat cmd h, fun grp idx _ h => asmSetProp_toNat ops grp idx h,
    asmGetProp_toNat ops⟩

end Sys2Proof.Machine
end

section
/-! ### The CRC unit's operations (40_crc.md R101 to R108)

What each of the three operations answers, in every state and for every table. -/

namespace Sys2Proof.Machine

@[simp] theorem crc8_singleton (table : CrcTable) (b : Byte) :
    crc8 table [b] = crcLookup table (0xFF ^^^ b) := rfl

theorem crcLookup_zero (table : CrcTable) : crcLookup table 0x00 = table[0] := rfl

/-- Settles O17: the fold starts at the initial value, and its last step is the last byte's lookup. -/
theorem crcIsTableDriven : Obligations.CrcIsTableDriven := fun table =>
  ⟨crc8_nil table, crc8_snoc table⟩

/-! #### `CRC` (R104) -/

theorem exec_crc (data : List Byte) (s : State) :
    exec (.crc data) s = .next { s with out := some [0x00, crc8 s.params.crcTable data] } := rfl

/-- Settles O18: the corner cases are the answer to a buffer of at most one byte. -/
theorem crcAnswers : Obligations.CrcAnswers := by
  refine fun s => ⟨fun data hlen => ?decodes, fun data => exec_crc data s, ?empty, ?entryZero, ?entry⟩
  case decodes =>
    apply decode_crc
    rw [BitVec.toNat_ofNat]
    omega
  case empty => rw [exec_crc, crc8_nil]
  case entryZero =>
    rw [exec_crc, crc8_singleton, BitVec.xor_self]
    rfl
  case entry =>
    intro b
    rw [exec_crc, crc8_singleton, crcLookup]

/-! #### `PKT_BUILD` (R105) -/

theorem exec_pktBuild (opcode : Word) (channel : Half) (s : State) :
    exec (.pktBuild opcode channel) s =
      .next { s with out := some (0x00 :: buildPacket s.params.crcTable opcode channel) } := rfl

theorem decode_pktBuild (o3 o2 o1 o0 c1 c0 : Byte) :
    decode [0x02, o3, o2, o1, o0, c1, c0] =
      .ok (.pktBuild (ofBe32 o3 o2 o1 o0) (ofBe16 c1 c0)) := rfl

/-- Settles O19: the six bytes are those the two operands split into, and they assemble to the operands
again. -/
theorem pktBuildAnswers : Obligations.PktBuildAnswers := by
  intro s op ch
  have opcodeValue := ofBe32_toNat (op.extractLsb' 24 8) (op.extractLsb' 16 8) (op.extractLsb' 8 8)
    (op.extractLsb' 0 8)
  have channelValue := ofBe16_toNat (ch.extractLsb' 8 8) (ch.extractLsb' 0 8)
  rw [ofBe32_split] at opcodeValue
  rw [ofBe16_split] at channelValue
  refine ⟨op.extractLsb' 24 8, op.extractLsb' 16 8, op.extractLsb' 8 8, op.extractLsb' 0 8,
    ch.extractLsb' 8 8, ch.extractLsb' 0 8, opcodeValue.trans (by ring), channelValue,
    ?decodes, exec_pktBuild op ch s⟩
  case decodes => rw [decode_pktBuild, ofBe32_split, ofBe16_split]

/-! #### `PKT_CHECK` (R107) -/

theorem exec_pktCheck (packet : Vector Byte 7) (s : State) :
    exec (.pktCheck packet) s = .next { s with out := some [0x00,
      if crc8 s.params.crcTable (packet.toList.take 6) = packet[6] then 0x01 else 0x00] } := by
  simp only [← packetValid_iff]
  rfl

/-- Settles O20: the answer is the comparison of byte 6 with the CRC of the first six bytes. -/
theorem pktCheckAnswers : Obligations.PktCheckAnswers := fun s p0 p1 p2 p3 p4 p5 p6 =>
  ⟨decode_pktCheck #v[p0, p1, p2, p3, p4, p5, p6], exec_pktCheck #v[p0, p1, p2, p3, p4, p5, p6] s⟩

theorem exec_pktCheck_matches_iff (packet : Vector Byte 7) (s : State) :
    exec (.pktCheck packet) s = .next { s with out := some [0x00, 0x01] } ↔
      crc8 s.params.crcTable (packet.toList.take 6) = packet[6] := by
  rw [exec_pktCheck]
  split
  next matching => exact iff_of_true rfl matching
  next different => exact iff_of_false (by simp) different

/-! #### The residue of a whole packet (R108) -/

/-- The whole packet's `crc8` is the lookup of the difference between byte 6 and the CRC it should be. -/
theorem crc8_packet (table : CrcTable) (packet : Vector Byte 7) :
    crc8 table packet.toList =
      crcLookup table (crc8 table (packet.toList.take 6) ^^^ packet[6]) := by
  conv_lhs => rw [packet_split packet, crc8_snoc]

/-- When only 0x00 is looked up to 0x00, the residue is 0x00 exactly when byte 6 is the CRC. -/
theorem crc8_packet_eq_zero_iff {table : CrcTable} (zero : table[0] = 0x00)
    (injective : Function.Injective (crcLookup table)) (packet : Vector Byte 7) :
    crc8 table packet.toList = 0x00 ↔ crc8 table (packet.toList.take 6) = packet[6] := by
  calc crc8 table packet.toList = 0x00
    _ ↔ crcLookup table (crc8 table (packet.toList.take 6) ^^^ packet[6]) = crcLookup table 0x00 := by
      rw [crc8_packet, crcLookup_zero, zero]
    _ ↔ crc8 table (packet.toList.take 6) ^^^ packet[6] = 0x00 := injective.eq_iff
    _ ↔ crc8 table (packet.toList.take 6) = packet[6] := BitVec.xor_eq_zero_iff

end Sys2Proof.Machine
end

section
/-! ### The candidate tables (40_crc.md R103, R108, R109)

A candidate's entries are eight bits of a generator. One bit of either generator is additive and sends only
0x00 to 0x00, so it is injective, and both properties pass to the whole table. -/

namespace Sys2Proof.Machine

/-- `f` commutes with the exclusive or, as R109 says of a candidate table. -/
def XorAdditive (f : Byte → Byte) : Prop := ∀ a b, f (a ^^^ b) = f a ^^^ f b

theorem XorAdditive.map_zero {f : Byte → Byte} (hf : XorAdditive f) : f 0x00 = 0x00 := by
  have h := hf 0x00 0x00
  rwa [BitVec.xor_self, BitVec.xor_self] at h

theorem XorAdditive.iterate {f : Byte → Byte} (hf : XorAdditive f) (n : Nat) : XorAdditive f^[n] := by
  induction n with
  | zero => exact fun _ _ => rfl
  | succ n ih => exact fun a b => by simp only [Function.iterate_succ_apply, hf a b, ih (f a) (f b)]

theorem XorAdditive.injective {f : Byte → Byte} (hf : XorAdditive f)
    (kernel : ∀ c, f c = 0x00 → c = 0x00) : Function.Injective f := by
  intro a b h
  have difference : f (a ^^^ b) = 0x00 := (hf a b).trans (BitVec.xor_eq_zero_iff.mpr h)
  exact BitVec.xor_eq_zero_iff.mp (kernel _ difference)

/-! #### One bit of a generator -/

/-- Adding a constant when one bit of the byte is set: of two bytes that both have it, the constants cancel. -/
theorem xorAdditive_addWhen {shift : Byte → Byte} (hs : XorAdditive shift) (bit : Nat) (poly : Byte) :
    XorAdditive fun c => if c.getLsbD bit then shift c ^^^ poly else shift c := by
  intro a b
  simp only [BitVec.getLsbD_xor, hs a b]
  cases a.getLsbD bit <;> cases b.getLsbD bit
  case false.false => rfl
  case false.true => exact BitVec.xor_assoc _ _ _
  case true.false =>
    change shift a ^^^ shift b ^^^ poly = shift a ^^^ poly ^^^ shift b
    ac_rfl
  case true.true =>
    calc shift a ^^^ shift b
      _ = shift a ^^^ shift b ^^^ (poly ^^^ poly) := by rw [BitVec.xor_self, BitVec.xor_zero]
      _ = shift a ^^^ poly ^^^ (shift b ^^^ poly) := by ac_rfl

theorem xorAdditive_shiftMsbFirst (poly : Byte) : XorAdditive (shiftMsbFirst poly) :=
  xorAdditive_addWhen (shift := (· <<< 1)) (fun a b => BitVec.shiftLeft_xor_distrib a b 1) 7 poly

theorem xorAdditive_shiftLsbFirst (poly : Byte) : XorAdditive (shiftLsbFirst poly) :=
  xorAdditive_addWhen (shift := (· >>> 1)) (fun a b => BitVec.ushiftRight_xor_distrib a b 1) 0 poly

/-! #### The three tables -/

theorem crcLookup_generated (shift : Byte → Byte) :
    crcLookup (crcTableOf (eightTimes shift)) = shift^[8] := by
  funext b
  rw [crcLookup_crcTableOf]
  rfl

/-- What the statements about the candidates need of their generators. -/
theorem candidate_generator {table : CrcTable} (h : table ∈ [tableM8D, tableR8D, tableL8D]) :
    ∃ shift, table = crcTableOf (eightTimes shift) ∧ XorAdditive shift ∧
      ∀ c, shift c = 0x00 → c = 0x00 := by
  simp only [List.mem_cons, List.not_mem_nil, or_false] at h
  obtain rfl | rfl | rfl := h
  · exact ⟨_, rfl, xorAdditive_shiftMsbFirst 0x8D, by decide⟩
  · exact ⟨_, rfl, xorAdditive_shiftLsbFirst 0xB1, by decide⟩
  · exact ⟨_, rfl, xorAdditive_shiftLsbFirst 0x8D, by decide⟩

theorem candidate_additive {table : CrcTable} (h : table ∈ [tableM8D, tableR8D, tableL8D]) :
    XorAdditive (crcLookup table) := by
  obtain ⟨shift, rfl, additive, -⟩ := candidate_generator h
  exact crcLookup_generated shift ▸ additive.iterate 8

theorem candidate_injective {table : CrcTable} (h : table ∈ [tableM8D, tableR8D, tableL8D]) :
    Function.Injective (crcLookup table) := by
  obtain ⟨shift, rfl, additive, kernel⟩ := candidate_generator h
  exact crcLookup_generated shift ▸ (additive.injective kernel).iterate 8

theorem candidate_entry_zero {table : CrcTable} (h : table ∈ [tableM8D, tableR8D, tableL8D]) :
    table[0] = 0x00 :=
  (candidate_additive h).map_zero

/-- Settles O23: `PKT_CHECK` answers 0x01 exactly when byte 6 is the CRC of the others, and then the last
lookup is that of 0x00, the only one that gives 0x00. -/
theorem packetResidue : Obligations.PacketResidue := by
  refine ⟨fun s p zero bijective => ?residue, fun table h => ?candidates⟩
  case residue =>
    rw [crc8_packet_eq_zero_iff zero bijective.injective, exec_pktCheck_matches_iff]
  case candidates =>
    exact ⟨candidate_entry_zero h, Finite.injective_iff_bijective.mp (candidate_injective h)⟩

/-! #### `crc8` is affine (R109) -/

theorem crcStep_xor {table : CrcTable} (additive : XorAdditive (crcLookup table))
    (acc acc' b b' : Byte) :
    crcStep table (acc ^^^ acc') (b ^^^ b') = crcStep table acc b ^^^ crcStep table acc' b' := by
  simp only [crcStep]
  rw [← additive]
  congr 1
  ac_rfl

/-- The fold from any three accumulators: the buffers and a run of zeros of their length add up byte by
byte. -/
theorem foldl_crcStep_xor {table : CrcTable} (additive : XorAdditive (crcLookup table))
    {x y : List Byte} (h : x.length = y.length) (a b c : Byte) :
    (List.zipWith (· ^^^ ·) x y).foldl (crcStep table) (a ^^^ b ^^^ c) =
      x.foldl (crcStep table) a ^^^ y.foldl (crcStep table) b ^^^
        (List.replicate x.length 0).foldl (crcStep table) c := by
  induction x generalizing y a b c with
  | nil =>
    obtain rfl := List.eq_nil_of_length_eq_zero h.symm
    rfl
  | cons u x ih =>
    obtain ⟨v, y, rfl⟩ := List.exists_cons_of_length_eq_add_one h.symm
    have padded : u ^^^ v = u ^^^ v ^^^ 0 := BitVec.xor_zero.symm
    rw [List.zipWith_cons_cons, List.foldl_cons, padded, crcStep_xor additive, crcStep_xor additive]
    exact ih (Nat.succ.inj h) _ _ _

/-- Settles O24: three times the initial value is the initial value once, and from there the three folds add
up (`foldl_crcStep_xor`). -/
theorem crcIsAffine : Obligations.CrcIsAffine := fun _ h =>
  ⟨candidate_additive h, fun _ _ hlen =>
    foldl_crcStep_xor (candidate_additive h) hlen Config.crcInit Config.crcInit Config.crcInit⟩

end Sys2Proof.Machine
end

section
/-! ### Fields as bytes (R8, R64)

The byte of a field at a bit position, and a channel's two bytes as the statements write them. -/

namespace Sys2Proof.Machine

theorem extractLsb'_eq_ofNat {w : Nat} (v : BitVec w) (start : Nat) :
    v.extractLsb' start 8 = BitVec.ofNat 8 (v.toNat / 2 ^ start) := by
  rw [← Nat.shiftRight_eq_div_pow]
  rfl

theorem ofBe16_bytes (ch : Half) :
    ofBe16 (BitVec.ofNat 8 (ch.toNat / 256)) (BitVec.ofNat 8 ch.toNat) = ch := by
  have split := ofBe16_split ch
  rw [extractLsb'_eq_ofNat, extractLsb'_eq_ofNat] at split
  simpa using split

/-- A channel's bytes are the operands of format `F-CH` (R62). -/
theorem decodeCh_bytes (mk : Half → Instr) (ch : Half) :
    decodeCh mk [BitVec.ofNat 8 (ch.toNat / 256), BitVec.ofNat 8 ch.toNat] = .ok (mk ch) :=
  congrArg (Except.ok ∘ mk) (ofBe16_bytes ch)

theorem be64_eq (w : BitVec 64) :
    be64 w = [7, 6, 5, 4, 3, 2, 1, 0].map fun k => BitVec.ofNat 8 (w.toNat / 2 ^ (8 * k)) := by
  simp only [be64, extractLsb'_eq_ofNat]
  rfl

/-- A field of at most 24 bits has a zero byte on top. -/
theorem be32_eq_be24 {v : Word} (h : v.toNat < 2 ^ 24) : be32 v = 0x00 :: be24 v := by
  have top : v.extractLsb' 24 8 = 0x00 := by
    rw [extractLsb'_eq_ofNat, Nat.div_eq_of_lt h]
    rfl
  exact congrArg (· :: be24 v) top

end Sys2Proof.Machine
end

section
/-! ### The rounding of normal numbers (R9, D7)

What the PLL datapath needs of binary64: the relative error of a rounding, numbers that are left as they are,
and the bit pattern of a normal number. -/

namespace Sys2Proof.Machine

/-- A rounding moves a normal number by at most `2^-53` of it. -/
theorem roundEven_relative_error {v : Rat} (normal : pow2 (-1022) ≤ v) :
    |roundEven v - v| ≤ v / 2 ^ 53 := by
  have positive : 0 < v := (pow2_pos _).trans_le normal
  obtain ⟨lo, hi⟩ := binade_spec positive.ne'
  rw [abs_of_pos positive] at lo hi
  have exponent : -1022 ≤ binade v := by
    by_contra low
    have := pow2_le_pow2 (show binade v + 1 ≤ -1022 by omega)
    linarith
  have unit : ulpExp v = binade v + -52 :=
    ulpExp_of_binade exponent (by rwa [abs_of_pos positive]) (by rwa [abs_of_pos positive])
  calc |roundEven v - v|
    _ ≤ pow2 (binade v + -52) / 2 := unit ▸ roundEven_error v
    _ = pow2 (binade v) / 2 ^ 53 := by
      rw [pow2_add, show pow2 (-52) = 1 / 2 ^ 52 by rw [pow2_eq_zpow]; norm_num]
      ring
    _ ≤ v / 2 ^ 53 := by gcongr

/-- The form a chain of roundings uses: two linear bounds. -/
theorem roundEven_bounds {v : Rat} (h : 1 / 4 ≤ v) :
    v - v / 2 ^ 53 ≤ roundEven v ∧ roundEven v ≤ v + v / 2 ^ 53 := by
  have quarter : pow2 (-2) = 1 / 4 := by rw [pow2_eq_zpow]; norm_num
  have normal : pow2 (-1022) ≤ v := (pow2_le_pow2 (by norm_num)).trans (quarter.trans_le h)
  obtain ⟨lo, hi⟩ := abs_le.mp (roundEven_relative_error normal)
  constructor <;> linarith

theorem roundEven_nonneg {v : Rat} (h : 0 ≤ v) : 0 ≤ roundEven v := by
  have unit := pow2_pos (ulpExp v)
  have scaled : 0 ≤ (v / pow2 (ulpExp v)).floor := Rat.le_floor_iff.mpr (by push_cast; positivity)
  have rounded : 0 ≤ tiesToEven (v / pow2 (ulpExp v)) := by
    unfold tiesToEven
    dsimp only
    split_ifs <;> omega
  rw [roundEven]
  positivity

/-- A number with at most 53 bits over a power of two is left as it is. -/
theorem roundEven_dyadic {v : Rat} (m : Int) (e : Nat) (value : v = m / 2 ^ e)
    (hm : m.natAbs < 2 ^ 53) (he : e ≤ 1074) : roundEven v = v :=
  roundEven_of_representable
    ⟨m, -e, hm, by omega, by rw [value, zpow_neg, zpow_natCast, div_eq_mul_inv]⟩

/-- A number of `k + 1` bits before the point is rounded to `52 - k` bits after it. -/
theorem roundEven_eq_dyadic {v : Rat} (k j : Nat) (bits : k + j = 52) (lo : 2 ^ k ≤ v)
    (hi : v < 2 ^ (k + 1)) : ∃ m : Int, roundEven v = m / 2 ^ j := by
  have positive : 0 < v := (by positivity : (0 : Rat) < 2 ^ k).trans_le lo
  have ulp : ulpExp v = k - 52 := by
    refine ulpExp_of_binade (by omega) ?_ ?_ <;> rw [abs_of_pos positive, pow2_eq_zpow]
    · exact_mod_cast lo
    · exact_mod_cast hi
  refine ⟨tiesToEven (v / pow2 (k - 52)), ?_⟩
  rw [roundEven, ulp, div_eq_mul_inv _ (2 ^ j : Rat), ← zpow_natCast, ← zpow_neg, ← pow2_eq_zpow,
    show (k : Int) - 52 = -j by omega]

/-- `Rat.floor` is Mathlib's floor. -/
theorem floor_eq_iff {x : Rat} {z : Int} : x.floor = z ↔ z ≤ x ∧ x < z + 1 := Int.floor_eq_iff (a := x)

theorem f64OfNat_one : f64OfNat 1 = 1 := f64OfNat_exact (by decide)

theorem f64Trunc_of_nonneg {x : F64} (h : 0 ≤ x) : f64Trunc x = x.floor := if_pos h

/-- The pattern of a normal number: the biased exponent above the significand without its leading 1 (I26). -/
theorem bits64_toNat_of_normal {m : Nat} {e : Int} (lo : 2 ^ 52 ≤ m) (hi : m < 2 ^ 53)
    (normal : -1074 ≤ e) (finite : e ≤ 971) :
    (bits64 (m * pow2 e)).toNat = (e + 1075).toNat * 2 ^ 52 + (m - 2 ^ 52) := by
  have unit := pow2_pos e
  have value : |(m : Rat) * pow2 e| = m * pow2 e := abs_of_nonneg (by positivity)
  have ulp : ulpExp (m * pow2 e) = e := by
    have below : pow2 (e + 52) ≤ |(m : Rat) * pow2 e| := by
      rw [value, add_comm, pow2_add, pow2_eq_zpow 52]
      gcongr
      exact_mod_cast lo
    have above : |(m : Rat) * pow2 e| < pow2 (e + 52 + 1) := by
      rw [value, add_assoc, add_comm, pow2_add, pow2_eq_zpow (52 + 1)]
      gcongr
      exact_mod_cast hi
    rw [ulpExp_of_binade (by omega) below above]
    omega
  have significand : (|(m : Rat) * pow2 e| / pow2 e).floor.toNat = m := by
    rw [value, mul_div_cancel_right₀ _ unit.ne', ← Int.cast_natCast m, Rat.floor_intCast,
      Int.toNat_natCast]
  have sign : decide ((m : Rat) * pow2 e < 0) = false :=
    decide_eq_false (not_lt.mpr (by positivity))
  have biased : (e + 1075).toNat < 2 ^ 11 := by omega
  have fraction : m % 2 ^ 52 = m - 2 ^ 52 := by omega
  rw [bits64, ulp, significand, sign, if_neg (not_lt.mpr lo), BitVec.toNat_append,
    ← Nat.shiftLeft_add_eq_or_of_lt (BitVec.isLt _), BitVec.toNat_append, BitVec.toNat_ofNat,
    BitVec.toNat_ofNat, Nat.mod_eq_of_lt biased, fraction, Nat.shiftLeft_eq]
  simp

end Sys2Proof.Machine
end

section
/-! ### The channel code (41_pll.md R120) -/

namespace Sys2Proof.Machine

theorem channelCode_eq (ch : Half) : channelCode ch =
    if 8862 < ch.toNat then 2 * ch.toNat + 10658 else ch.toNat + 19520 := rfl

/-- Settles O26: on each branch the code is a line, and the claims are its values at the branch's ends. -/
theorem channelCodes : Obligations.ChannelCodes := by
  intro ch
  have range := ch.isLt
  rw [channelCode_eq]
  split
  next high => omega
  next low => omega

theorem channelCode_bounds (ch : Half) : 19520 ≤ channelCode ch ∧ channelCode ch ≤ 141728 := by
  have range := ch.isLt
  rw [channelCode_eq]
  split <;> omega

/-- The codes of the channels `PLL_PARAMS` accepts. -/
theorem channelCode_valid {ch : Half} (lo : 1 ≤ ch.toNat) (hi : ch.toNat ≤ 10111) :
    19521 ≤ channelCode ch ∧ channelCode ch ≤ 30880 := by
  rw [channelCode_eq]
  split <;> omega

theorem channelCode_lt {c d : Half} (h : c.toNat < d.toNat) : channelCode c < channelCode d := by
  rw [channelCode_eq, channelCode_eq]
  split <;> split <;> omega

end Sys2Proof.Machine
end

section
/-! ### The datapath up to the divider ratio (41_pll.md R121, R123)

Each of the five roundings moves its value by at most `2^-53` of it. Where R123's quotient is whole, the code
is a multiple of 375 up to 16000 and no rounding moves anything. -/

namespace Sys2Proof.Machine

theorem frequencyMhz_eq {fc : Nat} (h : fc < 2 ^ 53) :
    frequencyMhz fc = roundEven (10 * roundEven (43 + roundEven (fc / 64000))) := by
  have base : f64OfNat Config.fBase = 43 := f64OfNat_exact (by decide)
  have divisor : f64OfNat Config.fDiv = 64000 := f64OfNat_exact (by decide)
  have factor : f64OfNat Config.fMul = 10 := f64OfNat_exact (by decide)
  rw [frequencyMhz, base, divisor, factor, f64OfNat_exact h]
  rfl

theorem dividerHz_eq : dividerHz = 7500000 := by
  have two : f64OfNat 2 = 2 := f64OfNat_exact (by decide)
  have crystal : f64OfNat Config.xtalHz = 30000000 := f64OfNat_exact (by decide)
  have outdiv : f64OfNat Config.pllOutdiv = 8 := f64OfNat_exact (by decide)
  have double : roundEven (2 * 30000000) = 60000000 := by
    rw [roundEven_dyadic 60000000 0 (by norm_num) (by decide) (by decide)]
    norm_num
  rw [dividerHz, two, crystal, outdiv, f64Mul, double, f64Div,
    roundEven_dyadic 7500000 0 (by norm_num) (by decide) (by decide)]
  norm_num

theorem frequencyHz_eq (fc : Nat) : frequencyHz fc = roundEven (1000000 * frequencyMhz fc) := by
  have scale : f64OfNat Config.hzPerMhz = 1000000 := f64OfNat_exact (by decide)
  rw [frequencyHz, scale]
  rfl

theorem dividerRatio_eq (fc : Nat) : dividerRatio fc = roundEven (frequencyHz fc / 7500000) := by
  rw [dividerRatio, dividerHz_eq]
  rfl

/-! #### Every channel -/

section
variable {fc : Nat} (lo : 19520 ≤ fc) (hi : fc ≤ 141728)
include lo hi

theorem roundedSum_near :
    |roundEven (43 + roundEven (fc / 64000)) - (43 + fc / 64000)| ≤ 1 / 2 ^ 47 := by
  have lo' : (19520 : Rat) ≤ fc := by exact_mod_cast lo
  have hi' : (fc : Rat) ≤ 141728 := by exact_mod_cast hi
  obtain ⟨q1, q2⟩ := roundEven_bounds (v := fc / 64000) (by linarith)
  obtain ⟨a1, a2⟩ := roundEven_bounds (v := 43 + roundEven (fc / 64000)) (by linarith)
  rw [abs_le]
  constructor <;> linarith

/-- R121's frequency, three roundings from the exact one. -/
theorem frequencyMhz_near : |frequencyMhz fc - (430 + fc / 6400)| ≤ 1 / 2 ^ 42 := by
  have lo' : (19520 : Rat) ≤ fc := by exact_mod_cast lo
  have hi' : (fc : Rat) ≤ 141728 := by exact_mod_cast hi
  obtain ⟨a1, a2⟩ := abs_le.mp (roundedSum_near lo hi)
  rw [frequencyMhz_eq (by omega)]
  obtain ⟨f1, f2⟩ := roundEven_bounds (v := 10 * roundEven (43 + roundEven (fc / 64000))) (by linarith)
  rw [abs_le]
  constructor <;> linarith

theorem frequencyHz_near : |frequencyHz fc - (430000000 + 15625 / 100 * fc)| ≤ 1 / 2 ^ 21 := by
  have lo' : (19520 : Rat) ≤ fc := by exact_mod_cast lo
  have hi' : (fc : Rat) ≤ 141728 := by exact_mod_cast hi
  obtain ⟨f1, f2⟩ := abs_le.mp (frequencyMhz_near lo hi)
  rw [frequencyHz_eq]
  obtain ⟨h1, h2⟩ := roundEven_bounds (v := 1000000 * frequencyMhz fc) (by linarith)
  rw [abs_le]
  constructor <;> linarith

end

/-! #### The channels that compute `N` -/

section
variable {fc : Nat} (lo : 19521 ≤ fc) (hi : fc ≤ 30880)
include lo hi

/-- `N` is within `2^-43` of its exact value (R123). -/
theorem dividerRatio_near : |dividerRatio fc - (57 + (fc + 16000) / 48000)| ≤ 1 / 2 ^ 43 := by
  have lo' : (19521 : Rat) ≤ fc := by exact_mod_cast lo
  have hi' : (fc : Rat) ≤ 30880 := by exact_mod_cast hi
  obtain ⟨h1, h2⟩ := abs_le.mp (frequencyHz_near (fc := fc) (by omega) (by omega))
  rw [dividerRatio_eq]
  obtain ⟨n1, n2⟩ := roundEven_bounds (v := frequencyHz fc / 7500000) (by linarith)
  rw [abs_le]
  constructor <;> linarith

/-- R126's interval, and with it the integral part of `N`. -/
theorem dividerRatio_range : 57 + 74 / 100 ≤ dividerRatio fc ∧ dividerRatio fc ≤ 57 + 98 / 100 := by
  have lo' : (19521 : Rat) ≤ fc := by exact_mod_cast lo
  have hi' : (fc : Rat) ≤ 30880 := by exact_mod_cast hi
  obtain ⟨n1, n2⟩ := abs_le.mp (dividerRatio_near lo hi)
  constructor <;> linarith

/-- `N` is a multiple of `2^-47`, the unit in the last place between 32 and 64. -/
theorem dividerRatio_eq_dyadic :
    ∃ m : Int, 57 * 2 ^ 47 ≤ m ∧ m < 58 * 2 ^ 47 ∧ dividerRatio fc = m / 2 ^ 47 := by
  have lo' : (19521 : Rat) ≤ fc := by exact_mod_cast lo
  have hi' : (fc : Rat) ≤ 30880 := by exact_mod_cast hi
  obtain ⟨h1, h2⟩ := abs_le.mp (frequencyHz_near (fc := fc) (by omega) (by omega))
  obtain ⟨m, rounded⟩ := roundEven_eq_dyadic (v := frequencyHz fc / 7500000) 5 47 rfl
    (by linarith) (by linarith)
  have value : dividerRatio fc = m / 2 ^ 47 := (dividerRatio_eq fc).trans rounded
  obtain ⟨n1, n2⟩ := dividerRatio_range lo hi
  have least : (57 * 2 ^ 47 : Rat) ≤ m := by linarith
  have most : (m : Rat) < 58 * 2 ^ 47 := by linarith
  exact ⟨m, by exact_mod_cast least, by exact_mod_cast most, value⟩

end

/-- Where the exact `N` has seven bits after the point, every operation on the way is exact. -/
theorem dividerRatio_exact {fc : Nat} (hi : fc ≤ 30880) (whole : 375 ∣ fc + 16000) :
    dividerRatio fc = 57 + (fc + 16000) / 48000 := by
  obtain ⟨k, hk⟩ := whole
  have code : (fc : Rat) = 375 * k - 16000 := by
    rw [eq_sub_iff_add_eq]
    exact_mod_cast hk
  have quotient : roundEven (fc / 64000) = fc / 64000 :=
    roundEven_dyadic (3 * k - 128) 9 (by rw [code]; push_cast; ring) (by omega) (by decide)
  have sum : roundEven (43 + fc / 64000) = 43 + fc / 64000 :=
    roundEven_dyadic (3 * k + 21888) 9 (by rw [code]; push_cast; ring) (by omega) (by decide)
  have mhz : roundEven (10 * (43 + fc / 64000)) = 10 * (43 + fc / 64000) :=
    roundEven_dyadic (30 * k + 218880) 9 (by rw [code]; push_cast; ring) (by omega) (by decide)
  have hz : roundEven (1000000 * (10 * (43 + fc / 64000))) = 1000000 * (10 * (43 + fc / 64000)) :=
    roundEven_dyadic (30000000 * k + 218880000000) 9 (by rw [code]; push_cast; ring) (by omega)
      (by decide)
  have ratio : roundEven (1000000 * (10 * (43 + fc / 64000)) / 7500000) =
      1000000 * (10 * (43 + fc / 64000)) / 7500000 :=
    roundEven_dyadic (4 * k + 29184) 9 (by rw [code]; push_cast; ring) (by omega) (by decide)
  rw [dividerRatio_eq, frequencyHz_eq, frequencyMhz_eq (by omega), quotient, sum, mhz, hz, ratio]
  ring

end Sys2Proof.Machine
end

section
/-! ### The register values (41_pll.md R122, R123, R126)

On the codes of the valid channels `N` lies in [57, 58) and has 47 bits after the point, so what R122 does
with it is exact, and `FRAC` is R123's closed form. -/

namespace Sys2Proof.Machine

/-- R123's closed form of `FRAC`. -/
def closedFrac (fc : Nat) : Nat := 2 ^ 19 + (fc + 16000) * 4096 / 375

theorem closedFrac_lt {a b : Nat} (h : a < b) : closedFrac a < closedFrac b := by
  rw [closedFrac, closedFrac]
  omega

section
variable {fc : Nat} (lo : 19521 ≤ fc) (hi : fc ≤ 30880)
include lo hi

/-- The one place where the roundings could show: a quotient that is not whole is at least 1/375 away from
the next whole number, much more than `N` is off, and a whole one has no error at all. -/
theorem floor_scaledFraction : ((dividerRatio fc - 56) * 524288).floor = closedFrac fc := by
  obtain ⟨w, r, division, small⟩ : ∃ w r, (fc + 16000) * 4096 = 375 * w + r ∧ r < 375 :=
    ⟨_, _, (Nat.div_add_mod _ 375).symm, Nat.mod_lt _ (by decide)⟩
  have closed : closedFrac fc = 524288 + w := by
    rw [closedFrac, show (fc + 16000) * 4096 / 375 = w by omega]
    norm_num
  have exact : ((57 + (fc + 16000) / 48000 : Rat) - 56) * 524288 = 524288 + w + r / 375 := by
    have division' : ((fc + 16000) * 4096 : Rat) = 375 * w + r := by exact_mod_cast division
    linarith
  rw [floor_eq_iff, closed]
  push_cast
  rcases Nat.eq_zero_or_pos r with rfl | positive
  · rw [dividerRatio_exact hi (by omega), exact]
    constructor <;> norm_num
  · have lowest : (1 : Rat) ≤ r := by exact_mod_cast positive
    have highest : (r : Rat) ≤ 374 := by exact_mod_cast Nat.le_of_lt_succ small
    obtain ⟨n1, n2⟩ := abs_le.mp (dividerRatio_near lo hi)
    constructor <;> linarith

theorem closedFrac_bounds : 912272 ≤ closedFrac fc ∧ closedFrac fc ≤ 1036342 := by
  rw [closedFrac]
  omega

end

/-! #### What R122 makes of `N` -/

theorem integralPart_of_nonneg {n : F64} (h : 0 ≤ n) : integralPart n = n.floor := by
  rw [integralPart, f64Trunc_of_nonneg h]

theorem normalFraction_of_nonneg {n : F64} (h : 0 ≤ n) :
    normalFraction n = roundEven (roundEven (n - n.floor) + 1) := by
  rw [normalFraction, integralPart_of_nonneg h, f64OfNat_one]
  rfl

theorem normalInteger_of_nonneg {n : F64} (h : 0 ≤ n) : normalInteger n = roundEven (n.floor - 1) := by
  rw [normalInteger, integralPart_of_nonneg h, f64OfNat_one]
  rfl

/-- `INTE`, with both truncations read as floors. -/
theorem pllInte_of_one_le {n : F64} (h : 1 ≤ n) :
    pllInte n = BitVec.ofInt 8 (roundEven (n.floor - 1)).floor := by
  have whole : 1 ≤ n.floor := Rat.le_floor_iff.mpr (by exact_mod_cast h)
  have whole' : (1 : Rat) ≤ n.floor := by exact_mod_cast whole
  have positive : 0 ≤ roundEven (n.floor - 1) := roundEven_nonneg (by linarith)
  rw [pllInte, normalInteger_of_nonneg (by linarith), f64Trunc_of_nonneg positive]
  rfl

/-- `FRAC`, with its truncation read as a floor. -/
theorem pllFrac_of_nonneg {n : F64} (h : 0 ≤ normalFraction n) :
    pllFrac n = BitVec.ofInt 32 (roundEven (normalFraction n * 524288)).floor := by
  have scale : f64OfNat Config.fracScale = 524288 := f64OfNat_exact (by decide)
  have positive : 0 ≤ roundEven (normalFraction n * 524288) := roundEven_nonneg (by positivity)
  rw [pllFrac, scale, f64Mul, f64Trunc_of_nonneg positive]
  rfl

/-! #### The registers of a valid channel -/

section
variable {fc : Nat} (lo : 19521 ≤ fc) (hi : fc ≤ 30880)
include lo hi

theorem dividerRatio_floor : (dividerRatio fc).floor = 57 := by
  obtain ⟨n1, n2⟩ := dividerRatio_range lo hi
  rw [floor_eq_iff]
  constructor <;> push_cast <;> linarith

/-- The renormalisation is exact: what is left of `N` still has 47 bits after the point. -/
theorem normalFraction_dividerRatio : normalFraction (dividerRatio fc) = dividerRatio fc - 56 := by
  obtain ⟨m, least, most, hm⟩ := dividerRatio_eq_dyadic lo hi
  obtain ⟨n1, -⟩ := dividerRatio_range lo hi
  have fraction : roundEven (dividerRatio fc - 57) = dividerRatio fc - 57 :=
    roundEven_dyadic (m - 57 * 2 ^ 47) 47 (by rw [hm]; push_cast; ring) (by omega) (by decide)
  have shifted : roundEven (dividerRatio fc - 57 + 1) = dividerRatio fc - 57 + 1 :=
    roundEven_dyadic (m - 56 * 2 ^ 47) 47 (by rw [hm]; push_cast; ring) (by omega) (by decide)
  rw [normalFraction_of_nonneg (by linarith), dividerRatio_floor lo hi, Int.cast_ofNat, fraction, shifted]
  ring

theorem normalFraction_range :
    174 / 100 ≤ normalFraction (dividerRatio fc) ∧ normalFraction (dividerRatio fc) ≤ 198 / 100 := by
  obtain ⟨n1, n2⟩ := dividerRatio_range lo hi
  rw [normalFraction_dividerRatio lo hi]
  constructor <;> linarith

theorem fractionInRange_dividerRatio : fractionInRange (dividerRatio fc) = true := by
  have two : f64OfNat 2 = 2 := f64OfNat_exact (by decide)
  obtain ⟨f1, f2⟩ := normalFraction_range lo hi
  rw [fractionInRange, f64OfNat_one, two, Bool.and_eq_true, decide_eq_true_iff, decide_eq_true_iff]
  constructor <;> linarith

theorem pllInte_dividerRatio : pllInte (dividerRatio fc) = 56 := by
  obtain ⟨n1, -⟩ := dividerRatio_range lo hi
  have exact : roundEven (57 - 1) = (56 : Int) :=
    (roundEven_dyadic 56 0 (by norm_num) (by decide) (by decide)).trans (by norm_num)
  rw [pllInte_of_one_le (by linarith), dividerRatio_floor lo hi, Int.cast_ofNat, exact,
    Rat.floor_intCast]
  rfl

theorem pllFrac_dividerRatio : pllFrac (dividerRatio fc) = BitVec.ofNat 32 (closedFrac fc) := by
  obtain ⟨m, least, most, hm⟩ := dividerRatio_eq_dyadic lo hi
  obtain ⟨f1, -⟩ := normalFraction_range lo hi
  have scaled : roundEven ((dividerRatio fc - 56) * 524288) = (dividerRatio fc - 56) * 524288 :=
    roundEven_dyadic (m - 56 * 2 ^ 47) 28 (by rw [hm]; push_cast; ring) (by omega) (by decide)
  rw [pllFrac_of_nonneg (by linarith), normalFraction_dividerRatio lo hi, scaled,
    floor_scaledFraction lo hi, BitVec.ofInt_natCast]

theorem pllFrac_toNat : (pllFrac (dividerRatio fc)).toNat = closedFrac fc := by
  obtain ⟨-, most⟩ := closedFrac_bounds lo hi
  rw [pllFrac_dividerRatio lo hi, BitVec.toNat_ofNat]
  omega

end

theorem pllFrac_channel {ch : Half} (least : 1 ≤ ch.toNat) (most : ch.toNat ≤ 10111) :
    (pllFrac (dividerRatio (channelCode ch))).toNat = closedFrac (channelCode ch) :=
  pllFrac_toNat (channelCode_valid least most).1 (channelCode_valid least most).2

/-- Settles O34: every claim about `FRAC` is one about its closed form, which rises by at least ten from a code
to the next. -/
theorem pllRanges : Obligations.PllRanges := by
  refine ⟨fun ch least most => ?ranges, fun c d least less most => ?rises, ?first, ?last⟩
  case ranges =>
    obtain ⟨lo, hi⟩ := channelCode_valid least most
    obtain ⟨f1, f2⟩ := normalFraction_range lo hi
    obtain ⟨c1, c2⟩ := closedFrac_bounds lo hi
    have frac := pllFrac_channel least most
    refine ⟨pllInte_dividerRatio lo hi, by omega, by omega, ?highByte, f1, f2,
      fractionInRange_dividerRatio lo hi⟩
    case highByte =>
      rw [extractLsb'_eq_ofNat, frac]
      have high : closedFrac (channelCode ch) / 2 ^ 16 = 0x0D ∨
          closedFrac (channelCode ch) / 2 ^ 16 = 0x0E ∨ closedFrac (channelCode ch) / 2 ^ 16 = 0x0F := by
        omega
      obtain h | h | h := high <;> rw [h] <;> decide
  case rises =>
    rw [pllFrac_channel least (by omega), pllFrac_channel (by omega) most]
    exact closedFrac_lt (channelCode_lt less)
  case first => exact (pllFrac_channel (ch := 1) (by decide) (by decide)).trans (by decide)
  case last => exact (pllFrac_channel (ch := 10111) (by decide) (by decide)).trans (by decide)

end Sys2Proof.Machine
end

section
/-! ### `PLL_FREQ` (41_pll.md R124) -/

namespace Sys2Proof.Machine

/-- For every channel the frequency lies between 256 and 512 MHz, where the unit in the last place is
`2^-44`. -/
theorem frequencyMhz_eq_significand {fc : Nat} (lo : 19520 ≤ fc) (hi : fc ≤ 141728) :
    ∃ m : Nat, 2 ^ 52 ≤ m ∧ m < 2 ^ 53 ∧ frequencyMhz fc = m * pow2 (-44) := by
  have lo' : (19520 : Rat) ≤ fc := by exact_mod_cast lo
  have hi' : (fc : Rat) ≤ 141728 := by exact_mod_cast hi
  obtain ⟨a1, a2⟩ := abs_le.mp (roundedSum_near lo hi)
  obtain ⟨f1, f2⟩ := abs_le.mp (frequencyMhz_near lo hi)
  obtain ⟨m, rounded⟩ := roundEven_eq_dyadic
    (v := 10 * roundEven (43 + roundEven (fc / 64000))) 8 44 rfl (by linarith) (by linarith)
  have value : frequencyMhz fc = m / 2 ^ 44 := (frequencyMhz_eq (by omega)).trans rounded
  have least : (2 ^ 52 : Rat) ≤ m := by linarith
  have most : (m : Rat) < 2 ^ 53 := by linarith
  have unit : pow2 (-44) = (2 ^ 44)⁻¹ := by rw [pow2_eq_zpow]; norm_num
  lift m to Nat using by exact_mod_cast (by norm_num : (0 : Rat) ≤ 2 ^ 52).trans least
  exact ⟨m, by exact_mod_cast least, by exact_mod_cast most, by rw [value, unit, div_eq_mul_inv]; rfl⟩

theorem exec_pllFreq (ch : Half) (s : State) :
    exec (.pllFreq ch) s =
      .next { s with out := some (0x00 :: be64 (bits64 (frequencyMhz (channelCode ch)))) } := rfl

/-- Settles O27: the frequency's significand and exponent stand in the pattern unchanged, the exponent as
1031. -/
theorem pllFreqAnswers : Obligations.PllFreqAnswers := by
  intro s ch
  obtain ⟨lo, hi⟩ := channelCode_bounds ch
  obtain ⟨m, least, most, value⟩ := frequencyMhz_eq_significand lo hi
  have pattern := bits64_toNat_of_normal (e := -44) least most (by decide) (by decide)
  rw [← value, show (-44 + 1075 : Int).toNat = 1031 from rfl] at pattern
  have exponent : (bits64 (frequencyMhz (channelCode ch))).toNat / 2 ^ 52 = 1031 := by omega
  have significand : 2 ^ 52 + (bits64 (frequencyMhz (channelCode ch))).toNat % 2 ^ 52 = m := by omega
  refine ⟨bits64 (frequencyMhz (channelCode ch)), channelCode ch, decodeCh_bytes .pllFreq ch,
    channelCode_eq ch, by omega, by omega, ?value, ?answer⟩
  case value =>
    rw [exponent, significand, ← frequencyMhz_eq (by omega), value, pow2_eq_zpow]
    rfl
  case answer => rw [exec_pllFreq, be64_eq]

end Sys2Proof.Machine
end

section
/-! ### `PLL_PARAMS` and `PLL_REGS` (41_pll.md R125, R127) -/

namespace Sys2Proof.Machine

theorem channelInRange_iff (ch : Half) :
    channelInRange ch = true ↔ 1 ≤ ch.toNat ∧ ch.toNat ≤ 10111 := by
  rw [channelInRange, Bool.and_eq_true, decide_eq_true_iff, decide_eq_true_iff]
  rfl

/-- On a valid channel neither check fails. -/
theorem pllParameters_valid {ch : Half} (lo : 1 ≤ ch.toNat) (hi : ch.toNat ≤ 10111) :
    pllParameters ch = .ok (pllInte (dividerRatio (channelCode ch)),
      pllFrac (dividerRatio (channelCode ch))) := by
  obtain ⟨clo, chi⟩ := channelCode_valid lo hi
  rw [pllParameters, if_pos ((channelInRange_iff ch).mpr ⟨lo, hi⟩),
    if_pos (fractionInRange_dividerRatio clo chi)]

theorem pllParameters_outOfRange {ch : Half} (h : ch.toNat = 0 ∨ 10112 ≤ ch.toNat) :
    pllParameters ch = .error .outOfRange := by
  have refused : ¬ channelInRange ch = true := by
    rw [channelInRange_iff]
    omega
  rw [pllParameters, if_neg refused]

/-! #### What the two operations do with the parameters -/

theorem exec_pllParams_of_ok {ch : Half} {inte : Byte} {frac : Word} (s : State)
    (h : pllParameters ch = .ok (inte, frac)) :
    exec (.pllParams ch) s = .next { s with out := some (0x00 :: inte :: be32 frac) } := by
  rw [exec, execPllParams, h]
  rfl

theorem exec_pllParams_of_error {ch : Half} {e : BlockError} (s : State)
    (h : pllParameters ch = .error e) : exec (.pllParams ch) s = .next (abort e s) := by
  rw [exec, execPllParams, h]

theorem exec_pllRegs_of_ok {ch : Half} {inte : Byte} {frac : Word} (s : State)
    (h : pllParameters ch = .ok (inte, frac)) :
    exec (.pllRegs ch) s = .next { s with out := some (0x00 :: inte :: be24 frac) } := by
  rw [exec, execPllRegs, h]
  rfl

theorem exec_pllRegs_of_error {ch : Half} {e : BlockError} (s : State)
    (h : pllParameters ch = .error e) : exec (.pllRegs ch) s = .next (abort e s) := by
  rw [exec, execPllRegs, h]

/-- Settles O30: the range check answers outside; inside, the answer's two fields are R122's, with `N` at
least 1 so that every truncation is a floor. -/
theorem pllParamsAnswers : Obligations.PllParamsAnswers := by
  intro s ch idle shape
  refine ⟨decodeCh_bytes .pllParams ch, fun outside => ?refused, fun lo hi => ?answered⟩
  case refused =>
    rw [exec_pllParams_of_error s (pllParameters_outOfRange outside), abort_idle _ s idle shape]
    rfl
  case answered =>
    obtain ⟨clo, chi⟩ := channelCode_valid lo hi
    obtain ⟨n1, -⟩ := dividerRatio_range clo chi
    obtain ⟨f1, -⟩ := normalFraction_range clo chi
    refine ⟨channelCode ch, dividerRatio (channelCode ch), normalFraction (dividerRatio (channelCode ch)),
      channelCode_eq ch, ?ratio, normalFraction_of_nonneg (by linarith), ?answer⟩
    case ratio => rw [dividerRatio_eq, frequencyHz_eq, frequencyMhz_eq (by omega)]
    case answer =>
      rw [exec_pllParams_of_ok s (pllParameters_valid lo hi), pllInte_of_one_le (by linarith),
        pllFrac_of_nonneg (by linarith)]

/-- Settles O32: both operations read the same parameters, and `FRAC` has at most 20 bits, so that the byte
`PLL_REGS` drops is 0x00. -/
theorem pllRegsAnswers : Obligations.PllRegsAnswers := by
  intro s t ch _ _ params
  refine ⟨decodeCh_bytes .pllRegs ch, ?_⟩
  by_cases valid : 1 ≤ ch.toNat ∧ ch.toNat ≤ 10111
  · obtain ⟨lo, hi⟩ := valid
    obtain ⟨clo, chi⟩ := channelCode_valid lo hi
    have small : (pllFrac (dividerRatio (channelCode ch))).toNat < 2 ^ 24 := by
      rw [pllFrac_channel lo hi]
      exact (closedFrac_bounds clo chi).2.trans_lt (by decide)
    have parameters := pllParameters_valid lo hi
    rw [exec_pllParams_of_ok s parameters, be32_eq_be24 small] at params
    cases params
    exact .inr ⟨_, _, _, _, rfl, lo, hi, exec_pllRegs_of_ok s parameters⟩
  · have outside : ch.toNat = 0 ∨ 10112 ≤ ch.toNat := by omega
    have parameters := pllParameters_outOfRange outside
    rw [exec_pllParams_of_error s parameters] at params
    cases params
    exact .inl ⟨0x01, abort_out _ s, exec_pllRegs_of_error s parameters, outside⟩

end Sys2Proof.Machine
end

section
/-! ### Runs of the sequencer

A run of an `EXEC` is a chain of the sequencer's labels (R145); once its response stands, the host takes it in
the next step, which shows in `delivered`. -/

namespace Sys2Proof.Machine

theorem coreRun_succ {M : Host.Core} {s u : M.State} (h : M.step s = .next u) (k : Nat) :
    M.run (k + 1) s = M.run k u := by
  simp only [Host.Core.run, h]

/-- A run of one step and more begins with a step that answers. -/
theorem coreRun_succ_cases {M : Host.Core} {s t : M.State} {k : Nat} (h : M.run (k + 1) s = .next t) :
    ∃ u, M.step s = .next u ∧ M.run k u = .next t := by
  simp only [Host.Core.run] at h
  cases first : M.step s with
  | next u => rw [first] at h; exact ⟨u, rfl, h⟩
  | fault r => rw [first] at h; cases h
  | refused r => rw [first] at h; cases h

theorem run_succ {s u : State} (h : step s = .next u) (k : Nat) :
    Host.Core.run Sys2Proof.core (k + 1) s = Host.Core.run Sys2Proof.core k u :=
  coreRun_succ (M := Sys2Proof.core) h k

/-- The host port only ever adds to the delivered responses (R44). -/
theorem run_delivered_prefix {k : Nat} {s t : State} (h : Host.Core.run Sys2Proof.core k s = .next t) :
    s.delivered <+: t.delivered := by
  induction k generalizing s with
  | zero => cases h; exact List.prefix_rfl
  | succ k ih =>
    obtain ⟨u, hstep, hrun⟩ := coreRun_succ_cases h
    obtain ⟨-, -, -, -, same | ⟨f, -, added, -⟩⟩ := requestsServedInOrder s u hstep
    · exact same ▸ ih hrun
    · exact (added ▸ List.prefix_append s.delivered [f]).trans (ih hrun)

/-- With reset released for good, a tick of the reset signal changes nothing. -/
theorem tick_of_released {s : State} (h : s.resetLine = []) : tick s = s := by
  simp only [tick, h, List.tail_nil]
  rw [← h]

/-- `n` labels of the sequencer lead from `s` to `t`, with reset released and a request in progress at each. -/
inductive SequencerRun : Nat → State → State → Prop
  | refl (s : State) : SequencerRun 0 s s
  | label {n : Nat} {s u t : State} {p : Point} (released : s.resetLine = []) (busy : s.phase ≠ .idle)
      (point : s.point = some p) (runs : runPoint p s = .next u) (rest : SequencerRun n u t) :
      SequencerRun (n + 1) s t

namespace SequencerRun

theorem one {s u : State} {p : Point} (released : s.resetLine = []) (busy : s.phase ≠ .idle)
    (point : s.point = some p) (runs : runPoint p s = .next u) : SequencerRun 1 s u :=
  .label released busy point runs (.refl u)

theorem trans {m n : Nat} {s u t : State} (first : SequencerRun m s u) (second : SequencerRun n u t) :
    SequencerRun (m + n) s t := by
  induction first with
  | refl => rwa [Nat.zero_add]
  | label released busy point runs _ ih =>
    rw [Nat.add_right_comm]
    exact .label released busy point runs (ih second)

theorem step_eq {s u : State} {p : Point} (released : s.resetLine = []) (busy : s.phase ≠ .idle)
    (point : s.point = some p) (runs : runPoint p s = .next u) : step s = .next u := by
  rw [step_busy s p (by simp [resetReleased, released]) busy point, tick_of_released released, runs]

theorem run_add {m : Nat} {s u : State} (h : SequencerRun m s u) (k : Nat) :
    Host.Core.run Sys2Proof.core (m + k) s = Host.Core.run Sys2Proof.core k u := by
  induction h with
  | refl => rw [Nat.zero_add]
  | label released busy point runs _ ih =>
    rw [Nat.add_right_comm, run_succ (step_eq released busy point runs), ih]

/-- The sequencer's labels are steps of the machine. -/
theorem run {m : Nat} {s u : State} (h : SequencerRun m s u) :
    Host.Core.run Sys2Proof.core m s = .next u := h.run_add 0

/-- A run that ends in `IDLE` goes through every label that comes first. -/
theorem resume {m k : Nat} {s u t : State} (h : SequencerRun m s u)
    (whole : Host.Core.run Sys2Proof.core k s = .next t) (idle : t.phase = .idle) :
    ∃ j, k = m + j ∧ Host.Core.run Sys2Proof.core j u = .next t := by
  induction h generalizing k with
  | refl => exact ⟨k, (Nat.zero_add k).symm, whole⟩
  | label released busy point runs _ ih =>
    cases k with
    | zero => cases whole; exact absurd idle busy
    | succ k =>
      rw [run_succ (step_eq released busy point runs)] at whole
      obtain ⟨j, rfl, hj⟩ := ih whole
      exact ⟨j, by omega, hj⟩

end SequencerRun

/-- `u` is the state in which the request in progress in `s` stands answered with `f`. -/
structure Answered (f : Frame) (s u : State) : Prop where
  released : u.resetLine = []
  phase : u.phase = .idle
  out : u.out = some f
  delivered : u.delivered = s.delivered

theorem answered_finish (f : Frame) {s u : State} (released : u.resetLine = [])
    (delivered : u.delivered = s.delivered) : Answered f s (finish f u) :=
  ⟨released, rfl, rfl, delivered⟩

theorem answered_abort (e : BlockError) {s u : State} (released : u.resetLine = [])
    (delivered : u.delivered = s.delivered) : Answered (errorFrame e) s (abort e u) :=
  ⟨by rw [abort_resetLine, released], abort_phase e u, abort_out e u, by rw [abort_delivered, delivered]⟩

/-- A run to an idle state before the host has taken the response ends where the request is answered. -/
theorem Answered.eq_of_run {f : Frame} {m k : Nat} {s₀ s u t : State} (answered : Answered f s₀ u)
    (labels : SequencerRun m s u) (whole : Host.Core.run Sys2Proof.core k s = .next t)
    (idle : t.phase = .idle) (untaken : t.delivered = s₀.delivered) : t = u := by
  obtain ⟨released, phase, out, delivered⟩ := answered
  obtain ⟨j, -, rest⟩ := labels.resume whole idle
  cases j with
  | zero => cases rest; rfl
  | succ j =>
    have taken : step u = .next (takeResponse f (tick u)) :=
      step_take u f (by simp [resetReleased, released]) phase out
    rw [run_succ taken] at rest
    have grown : u.delivered ++ [f] <+: t.delivered := run_delivered_prefix rest
    have length := grown.length_le
    simp [untaken, delivered] at length

end Sys2Proof.Machine
end

section
/-! ### One readiness poll (42_handshake.md R142, R144)

The two readiness waits of an `EXEC` share their poll: one lemma for each way it goes on or ends, over any
oracle that answers it. -/

namespace Sys2Proof.Machine

/-- The two readiness waits of R145: phase A, before the command, and phase C, before the response. -/
inductive Wait where
  | command
  | response

namespace Wait

def phase : Wait → Phase
  | command => .execPre
  | response => .execResp

/-- A1, C1: the label where a poll starts. -/
def select : Wait → Point
  | command => .a1
  | response => .c1

/-- A2, C2. -/
def ask : Wait → Point
  | command => .a2
  | response => .c2

/-- A3, C3. -/
def read : Wait → Point
  | command => .a3
  | response => .c3

/-- A5, C7: the label after a poll that reads not ready. -/
def sleep : Wait → Point
  | command => .a5
  | response => .c7

/-- The label after the CTS byte is read: only the response wait tells the two readings apart before it
deselects (R144). -/
def afterRead (w : Wait) (b : Byte) : Point :=
  match w with
  | command => .a4
  | response => if b = Config.ctsReady then .c4 else .c6

theorem phase_ne_idle (w : Wait) : w.phase ≠ .idle := by cases w <;> exact Phase.noConfusion

theorem runPoint_select (w : Wait) (s : State) : runPoint w.select s = .next (pollSelect w.ask s) := by
  cases w <;> rfl

theorem runPoint_ask_done (w : Wait) {s : State} {o : Oracle} (draw : drawFault s.oracle = (false, o)) :
    runPoint w.ask s =
      .next (goTo w.read (record (.wr [s.params.opReadCmdBuff]) { s with oracle := o })) := by
  have ask := pollAsk_eq w.read s
  simp only [draw, Bool.false_eq_true, if_false] at ask
  cases w <;> exact congrArg _ ask

theorem runPoint_ask_failed (w : Wait) {s : State} {o : Oracle} (draw : drawFault s.oracle = (true, o)) :
    runPoint w.ask s =
      .next (abort .busError (record (.wrErr [s.params.opReadCmdBuff]) { s with oracle := o })) := by
  have ask := pollAsk_eq w.read s
  simp only [draw, if_true] at ask
  cases w <;> exact congrArg _ ask

theorem runPoint_sleep (w : Wait) (s : State) : runPoint w.sleep s = .next (pollSleep w.select s) := by
  cases w <;> rfl

theorem runPoint_read_done (w : Wait) {s : State} {o o' : Oracle} {b : Byte}
    (draw : drawFault s.oracle = (false, o)) (byte : drawByte o = (b, o')) :
    runPoint w.read s = .next (goTo (w.afterRead b)
      { record (.rd 1 [b]) { s with oracle := o' } with cts := some b }) := by
  cases w with
  | command => exact (seqA3_eq s).trans (by simp [draw, byte, afterRead])
  | response => exact (seqC3_eq s).trans (by simp [draw, byte, afterRead])

theorem runPoint_read_failed (w : Wait) {s : State} {o : Oracle} (draw : drawFault s.oracle = (true, o)) :
    runPoint w.read s = .next (abort .busError (record (.rdErr 1) { s with oracle := o })) := by
  cases w with
  | command => exact (seqA3_eq s).trans (by simp [draw])
  | response => exact (seqC3_eq s).trans (by simp [draw])

/-- A poll that reads not ready ends the same way in both waits. -/
theorem runPoint_afterRead_notReady (w : Wait) {s : State} {b : Byte} (cts : s.cts = some b)
    (notReady : b ≠ 0xFF) : runPoint (w.afterRead b) s = .next (pollAgain w.sleep (busDeselect s)) := by
  cases w with
  | command => exact (seqA4_eq s b cts).trans (congrArg _ (if_neg notReady))
  | response => rw [afterRead, if_neg (c := b = Config.ctsReady) notReady]; rfl

/-- A4 after a poll that reads ready: the command is next. -/
theorem runPoint_afterRead_ready {s : State} (cts : s.cts = some 0xFF) :
    runPoint (command.afterRead 0xFF) s = .next (goTo .b1 { busDeselect s with phase := .execSend }) :=
  (seqA4_eq s 0xFF cts).trans (congrArg _ (if_pos rfl))

end Wait

/-- The oracle lets a poll's two bus calls through, answers `b`, and is left as `o'`. -/
def PollReads (o : Oracle) (b : Byte) (o' : Oracle) : Prop :=
  ∃ o₁ o₂, drawFault o = (false, o₁) ∧ drawFault o₁ = (false, o₂) ∧ drawByte o₂ = (b, o')

theorem pollReads_listed (faults : List Bool) (b : Byte) (bytes : List Byte) (draws : Nat) :
    PollReads ⟨false :: false :: faults, b :: bytes, draws⟩ b ⟨faults, bytes, draws⟩ :=
  ⟨_, _, rfl, rfl, rfl⟩

theorem pollAgain_allowed (p : Point) {s : State} (h : pollsAllowed s.params (s.polls + 1)) :
    pollAgain p s = goTo p s := by
  rw [pollAgain, (boundReached_eq_false_iff s).mpr h]
  rfl

theorem pollAgain_bound (p : Point) {s : State} (h : ¬ pollsAllowed s.params (s.polls + 1)) :
    pollAgain p s = abort .deviceNotResponding s :=
  if_pos (Bool.eq_true_of_not_eq_false fun notReached => h ((boundReached_eq_false_iff s).mp notReached))

/-- `s` after a poll that read `b` and deselected, the oracle left as `o'`. -/
abbrev polled (b : Byte) (o' : Oracle) (s : State) : State :=
  { s with
    polls := s.polls + 1, cs := false, cts := some b, oracle := o'
    trace := s.trace ++ pollEvents s.params.opReadCmdBuff b }

/-- `s` after the polls that read `reads`, none of them ready, each with the sleep after it; what the latest
poll left in `cs` and `cts` is given apart. -/
abbrev waited (reads : List Byte) (cs : Bool) (cts : Option Byte) (o : Oracle) (s : State) : State :=
  { s with
    polls := s.polls + reads.length, cs := cs, cts := cts, oracle := o
    trace := s.trace ++ pollsThatSleep s.params.opReadCmdBuff reads }

/-- `s` at the start of a poll of the wait `w`, reset released. -/
structure StartsPoll (w : Wait) (s : State) : Prop where
  released : s.resetLine = []
  phase : s.phase = w.phase
  point : s.point = some w.select

theorem StartsPoll.busy {w : Wait} {s : State} (h : StartsPoll w s) : s.phase ≠ .idle :=
  h.phase ▸ w.phase_ne_idle

theorem StartsPoll.waited {w : Wait} {s : State} (start : StartsPoll w s) (reads : List Byte) (cs : Bool)
    (cts : Option Byte) (o : Oracle) : StartsPoll w (waited reads cs cts o s) :=
  ⟨start.released, start.phase, start.point⟩

theorem waited_nil (s : State) : waited [] s.cs s.cts s.oracle s = s := by
  simp [waited, pollsThatSleep]

theorem waited_waited (b : Byte) (reads : List Byte) (cs cs' : Bool) (cts cts' : Option Byte)
    (o o' : Oracle) (s : State) :
    waited reads cs cts o (waited [b] cs' cts' o' s) = waited (b :: reads) cs cts o s := by
  simp [pollsThatSleep, Nat.add_assoc, Nat.add_comm]

section
variable {w : Wait} {s : State} {b : Byte} {o' : Oracle} (start : StartsPoll w s)
include start

theorem poll_select : SequencerRun 1 s (pollSelect w.ask s) :=
  .one start.released start.busy start.point (w.runPoint_select s)

theorem poll_ask {o : Oracle} (asked : drawFault s.oracle = (false, o)) :
    SequencerRun 2 s (goTo w.read (record (.wr [s.params.opReadCmdBuff])
      { pollSelect w.ask s with oracle := o })) :=
  (poll_select start).trans (.one start.released start.busy rfl
    (w.runPoint_ask_done (s := pollSelect w.ask s) asked))

/-- Whatever the oracle says, a poll reads a byte or ends the request in `BUS_ERROR`. -/
theorem poll_cases : (∃ b o', PollReads s.oracle b o') ∨
    ∃ n u, SequencerRun n s u ∧ Answered [0x04] s u := by
  rcases asked : drawFault s.oracle with ⟨_ | _, o₁⟩
  case true =>
    exact .inr ⟨2, _, (poll_select start).trans (.one start.released start.busy rfl
      (w.runPoint_ask_failed (s := pollSelect w.ask s) asked)), answered_abort .busError start.released rfl⟩
  case false =>
    rcases answered : drawFault o₁ with ⟨_ | _, o₂⟩
    case true =>
      exact .inr ⟨3, _, (poll_ask start asked).trans (.one start.released start.busy rfl
        (w.runPoint_read_failed answered)), answered_abort .busError start.released rfl⟩
    case false => exact .inl ⟨_, _, o₁, o₂, asked, answered, rfl⟩

/-- The CTS byte is read, and the chip is still selected. -/
theorem poll_read (reads : PollReads s.oracle b o') :
    SequencerRun 3 s
      { s with
        polls := s.polls + 1, cs := true, cts := some b, oracle := o', point := some (w.afterRead b)
        trace := s.trace ++ [.sel, .wr [s.params.opReadCmdBuff], .rd 1 [b]] } := by
  obtain ⟨o₁, o₂, asked, answered, byte⟩ := reads
  refine (poll_ask start asked).trans (.one start.released start.busy rfl
    ((w.runPoint_read_done answered byte).trans ?_))
  simp [goTo, record, pollSelect, busSelect]

/-- A poll that reads not ready deselects, and the bound says whether the wait goes on (R143). -/
theorem poll_notReady (reads : PollReads s.oracle b o') (notReady : b ≠ 0xFF) :
    SequencerRun 4 s (pollAgain w.sleep (polled b o' s)) := by
  refine (poll_read start reads).trans (.one start.released start.busy rfl
    ((w.runPoint_afterRead_notReady rfl notReady).trans ?_))
  simp [pollAgain, boundReached, abort, releaseSelect, busDeselect, record, clearLatches, respond, goTo,
    pollEvents]

/-- With another poll allowed, a poll that reads not ready goes on to the sleep. -/
theorem poll_again (reads : PollReads s.oracle b o') (notReady : b ≠ 0xFF)
    (allowed : pollsAllowed s.params (s.polls + 2)) :
    SequencerRun 4 s (goTo w.sleep (polled b o' s)) :=
  pollAgain_allowed (s := polled b o' s) w.sleep allowed ▸ poll_notReady start reads notReady

/-- After the sleep the next poll is to start. -/
theorem poll_sleep (reads : PollReads s.oracle b o') (notReady : b ≠ 0xFF)
    (allowed : pollsAllowed s.params (s.polls + 2)) :
    SequencerRun 5 s (waited [b] false (some b) o' s) := by
  refine (poll_again start reads notReady allowed).trans (.one start.released start.busy rfl
    ((w.runPoint_sleep _).trans ?_))
  simp [pollSleep, goTo, busSleep, record, Config.pollInterval, start.point, pollsThatSleep]

/-- The last poll allowed reads not ready: the wait fails, with no sleep after it. -/
theorem poll_last (reads : PollReads s.oracle b o') (notReady : b ≠ 0xFF)
    (last : ¬ pollsAllowed s.params (s.polls + 2)) :
    SequencerRun 4 s (abort .deviceNotResponding (polled b o' s)) :=
  pollAgain_bound (s := polled b o' s) w.sleep last ▸ poll_notReady start reads notReady

end

/-- The poll that reads ready ends the wait before the command. -/
theorem commandPoll_ready {s : State} {o' : Oracle} (start : StartsPoll .command s)
    (reads : PollReads s.oracle 0xFF o') :
    SequencerRun 4 s (goTo .b1 { polled 0xFF o' s with phase := .execSend }) := by
  refine (poll_read start reads).trans (.one start.released start.busy rfl
    ((Wait.runPoint_afterRead_ready rfl).trans ?_))
  simp [goTo, busDeselect, record, pollEvents]

end Sys2Proof.Machine
end

section
/-! ### The command write and the response read (42_handshake.md R74, R144) -/

namespace Sys2Proof.Machine

/-! #### The labels, by the oracle's draw where the bus call can fail -/

section
variable {s : State} {cmd rlen : Byte} {args : List Byte} {o : Oracle}

theorem runPoint_b1 (s : State) : runPoint .b1 s = .next (goTo .b2 (busSelect s)) := rfl

theorem runPoint_b2_done (hc : s.cmd = some cmd) (ha : s.args = some args)
    (draw : drawFault s.oracle = (false, o)) :
    runPoint .b2 s = .next (goTo .b3 (record (.wr (cmd :: args)) { s with oracle := o })) :=
  (seqB2_eq s cmd args hc ha).trans (by simp [draw])

theorem runPoint_b2_failed (hc : s.cmd = some cmd) (ha : s.args = some args)
    (draw : drawFault s.oracle = (true, o)) :
    runPoint .b2 s = .next (abort .busError (record (.wrErr (cmd :: args)) { s with oracle := o })) :=
  (seqB2_eq s cmd args hc ha).trans (by simp [draw])

theorem runPoint_b3 (hr : s.rlen = some rlen) :
    runPoint .b3 s = .next
      (if rlen = 0 then finish (okFrame []) (busDeselect s)
      else goTo .c1 { busDeselect s with phase := .execResp, polls := 0 }) :=
  seqB3_eq s rlen hr

theorem runPoint_c4_done (hr : s.rlen = some rlen) (draw : drawFault s.oracle = (false, o)) :
    runPoint .c4 s = .next (goTo .c5
      { record (.rd rlen.toNat (drawBytes rlen.toNat o).1)
          { s with oracle := (drawBytes rlen.toNat o).2 } with
        resp := some (drawBytes rlen.toNat o).1 }) :=
  (seqC4_eq s rlen hr).trans (by simp [draw])

theorem runPoint_c4_failed (hr : s.rlen = some rlen) (draw : drawFault s.oracle = (true, o)) :
    runPoint .c4 s = .next (abort .busError (record (.rdErr rlen.toNat) { s with oracle := o })) :=
  (seqC4_eq s rlen hr).trans (by simp [draw])

theorem runPoint_c5 {resp : List Byte} (hr : s.resp = some resp) :
    runPoint .c5 s = .next (finish (okFrame resp) (busDeselect s)) :=
  seqC5_eq s resp hr

end

/-! #### The poll that reads ready, and the command write -/

/-- The operands of the `EXEC` in progress. -/
structure Latched (cmd : Byte) (args : List Byte) (rlen : Byte) (s : State) : Prop where
  cmd : s.cmd = some cmd
  args : s.args = some args
  rlen : s.rlen = some rlen

/-- From `s` at the start of the wait before the command: after the not-ready polls `reads`, the poll that
reads ready and the command write, the oracle left as `o`, the request ends or the response wait begins. -/
def afterCommand (cmd : Byte) (args : List Byte) (rlen : Byte) (reads : List Byte) (o : Oracle)
    (s : State) : State :=
  let written : State :=
    { s with
      cs := false, cts := some 0xFF, oracle := o
      trace := s.trace ++ (waitEvents s.params.opReadCmdBuff reads ++ commandEvents cmd args) }
  if rlen = 0 then finish (okFrame []) written
  else goTo .c1 { written with phase := .execResp, polls := 0 }

section
variable (cmd : Byte) (args : List Byte) (rlen : Byte) (reads : List Byte) (o : Oracle) (s : State)

@[simp] theorem afterCommand_params : (afterCommand cmd args rlen reads o s).params = s.params := by
  unfold afterCommand; split <;> rfl
@[simp] theorem afterCommand_polls : (afterCommand cmd args rlen reads o s).polls = 0 := by
  unfold afterCommand; split <;> rfl
@[simp] theorem afterCommand_oracle : (afterCommand cmd args rlen reads o s).oracle = o := by
  unfold afterCommand; split <;> rfl
@[simp] theorem afterCommand_delivered : (afterCommand cmd args rlen reads o s).delivered = s.delivered := by
  unfold afterCommand; split <;> rfl
@[simp] theorem afterCommand_trace : (afterCommand cmd args rlen reads o s).trace =
    s.trace ++ (waitEvents s.params.opReadCmdBuff reads ++ commandEvents cmd args) := by
  unfold afterCommand; split <;> rfl

variable {rlen s}

/-- With no response due, the command ends the request (R145, B3). -/
theorem afterCommand_answered (released : s.resetLine = []) (noResponse : rlen = 0) :
    Answered [0x00] s (afterCommand cmd args rlen reads o s) := by
  rw [afterCommand, if_pos noResponse]
  exact answered_finish [0x00] released rfl

/-- With a response due, the wait for it begins, and counts from 0 (R143). -/
theorem afterCommand_starts (released : s.resetLine = []) (responds : rlen ≠ 0) :
    StartsPoll .response (afterCommand cmd args rlen reads o s) := by
  rw [afterCommand, if_neg responds]
  exact ⟨released, rfl, rfl⟩

theorem afterCommand_rlen (responds : rlen ≠ 0) : (afterCommand cmd args rlen reads o s).rlen = s.rlen := by
  rw [afterCommand, if_neg responds]
  rfl

end

section
variable {s : State} {reads : List Byte} {cs : Bool} {cts : Option Byte} {o o' : Oracle}
  (start : StartsPoll .command s) (poll : PollReads o 0xFF o')
include start poll

/-- The labels up to B2. -/
theorem command_select : SequencerRun 5 (waited reads cs cts o s)
    { s with
      phase := .execSend, point := some .b2, polls := s.polls + reads.length + 1, cs := true
      cts := some 0xFF, oracle := o'
      trace := s.trace ++ (waitEvents s.params.opReadCmdBuff reads ++ [.sel]) } := by
  refine (commandPoll_ready (start.waited reads cs cts o) poll).trans
    (.one start.released Phase.noConfusion rfl ((runPoint_b1 _).trans ?_))
  simp [goTo, busSelect, record, waitEvents]

variable {cmd rlen : Byte} {args : List Byte} {o'' : Oracle} (latched : Latched cmd args rlen s)
include latched

theorem command_written (draw : drawFault o' = (false, o'')) :
    SequencerRun 7 (waited reads cs cts o s) (afterCommand cmd args rlen reads o'' s) := by
  refine ((command_select start poll).trans (.one start.released Phase.noConfusion rfl
    (runPoint_b2_done (by exact latched.cmd) (by exact latched.args) draw))).trans
    (.one start.released Phase.noConfusion rfl ((runPoint_b3 (by exact latched.rlen)).trans ?_))
  simp [afterCommand, finish, clearLatches, respond, goTo, busDeselect, record, commandEvents]

theorem command_failed (draw : drawFault o' = (true, o'')) :
    ∃ u, SequencerRun 6 (waited reads cs cts o s) u ∧ Answered [0x04] s u :=
  ⟨_, (command_select start poll).trans (.one start.released Phase.noConfusion rfl
    (runPoint_b2_failed (by exact latched.cmd) (by exact latched.args) draw)),
    answered_abort .busError start.released rfl⟩

end

/-! #### The response read, in the span of the poll that reads ready -/

section
variable {s : State} {o o' : Oracle} {rlen : Byte} (start : StartsPoll .response s)
  (reads : PollReads s.oracle 0xFF o') (latched : s.rlen = some rlen)
include start reads latched

theorem response_read (draw : drawFault o' = (false, o)) :
    SequencerRun 5 s (finish (okFrame (drawBytes rlen.toNat o).1)
      { s with
        cs := false, oracle := (drawBytes rlen.toNat o).2
        trace := s.trace ++ responseEvents s.params.opReadCmdBuff (drawBytes rlen.toNat o).1 }) := by
  refine ((poll_read start reads).trans (.one start.released start.busy rfl
    (runPoint_c4_done latched draw))).trans (.one start.released start.busy rfl
    ((runPoint_c5 rfl).trans ?_))
  simp [finish, clearLatches, respond, goTo, busDeselect, record, responseEvents]

theorem response_failed (draw : drawFault o' = (true, o)) :
    ∃ u, SequencerRun 4 s u ∧ Answered [0x04] s u :=
  ⟨_, (poll_read start reads).trans (.one start.released start.busy rfl
    (runPoint_c4_failed latched draw)), answered_abort .busError start.released rfl⟩

end

end Sys2Proof.Machine
end

section
/-! ### Whole readiness waits (42_handshake.md R143)

Forwards, a wait whose bytes are known; backwards, what any run through a wait must have met. -/

namespace Sys2Proof.Machine

theorem pollsAllowed_mono {p : Params} {m n : Nat} (le : m ≤ n) (h : pollsAllowed p n) :
    pollsAllowed p m := by
  unfold pollsAllowed at *
  cases hb : p.ctsMaxPolls with
  | bounded most => simp only [hb] at h ⊢; exact le.trans h
  | unbounded => trivial

theorem oracle_eq {o : Oracle} {faults : List Bool} {bytes : List Byte} (hf : o.faults = faults)
    (hb : o.bytes = bytes) : o = ⟨faults, bytes, o.draws⟩ := by
  rw [← hf, ← hb]

section
variable {w : Wait} {s : State} {reads bytes : List Byte} {faults : List Bool} {draws : Nat}

/-- Polls that read not ready, one after another. -/
theorem wait_polls (start : StartsPoll w s) (notReady : allNotReady reads)
    (oracle : s.oracle = ⟨List.replicate (2 * reads.length) false ++ faults, reads ++ bytes, draws⟩)
    (allowed : pollsAllowed s.params (s.polls + reads.length + 1)) :
    ∃ cs cts, SequencerRun (5 * reads.length) s (waited reads cs cts ⟨faults, bytes, draws⟩ s) := by
  induction reads generalizing s with
  | nil =>
    have unchanged := waited_nil s
    rw [oracle] at unchanged
    exact ⟨s.cs, s.cts, unchanged.symm ▸ .refl s⟩
  | cons b reads ih =>
    obtain ⟨hb, rest⟩ := List.forall_mem_cons.mp notReady
    have poll : PollReads s.oracle b
        ⟨List.replicate (2 * reads.length) false ++ faults, reads ++ bytes, draws⟩ :=
      oracle ▸ pollReads_listed _ b _ draws
    rw [List.length_cons] at allowed
    have first := poll_sleep start poll hb (pollsAllowed_mono (by omega) allowed)
    obtain ⟨cs, cts, more⟩ := ih (start.waited [b] false (some b) _) rest rfl
      (pollsAllowed_mono (by simp; omega) allowed)
    rw [waited_waited] at more
    refine ⟨cs, cts, ?_⟩
    rw [List.length_cons, Nat.mul_succ, Nat.add_comm]
    exact first.trans more

/-- A wait in which every poll up to the last one allowed reads not ready. -/
theorem wait_fails {last : Byte} (start : StartsPoll w s) (notReady : allNotReady reads)
    (hlast : last ≠ 0xFF)
    (oracle : s.oracle =
      ⟨List.replicate (2 * reads.length) false ++ false :: false :: faults, reads ++ last :: bytes, draws⟩)
    (allowed : pollsAllowed s.params (s.polls + reads.length + 1))
    (bound : ¬ pollsAllowed s.params (s.polls + reads.length + 2)) :
    ∃ u, SequencerRun (5 * reads.length + 4) s u ∧ Answered [0x03] s u ∧
      u.trace = s.trace ++ failedWaitEvents s.params.opReadCmdBuff reads last := by
  obtain ⟨cs, cts, polls⟩ := wait_polls start notReady oracle allowed
  exact ⟨_, polls.trans (poll_last (start.waited ..) (pollReads_listed ..) hlast bound),
    answered_abort .deviceNotResponding start.released rfl, by simp [failedWaitEvents]⟩

end

/-- Without a bound, a wait stays a wait for as long as not-ready bytes come (R149): the steps inside a poll
one by one, and whole polls by induction. -/
theorem wait_goesOn {w : Wait} {reads : List Byte} {k : Nat} {s : State} (start : StartsPoll w s)
    (unbounded : s.params.ctsMaxPolls = .unbounded) (out : s.out = none) (notReady : allNotReady reads)
    (bytes : s.oracle.bytes = reads) (faults : s.oracle.faults = List.replicate (2 * reads.length) false)
    (covered : k ≤ 5 * reads.length) :
    ∃ t, Host.Core.run Sys2Proof.core k s = .next t ∧ t.phase = w.phase ∧ t.out = none := by
  have allowed (n : Nat) : pollsAllowed s.params n := by simp only [pollsAllowed, unbounded]
  induction reads generalizing s k with
  | nil =>
    rw [Nat.le_zero.mp covered]
    exact ⟨s, rfl, start.phase, out⟩
  | cons b reads ih =>
    obtain ⟨hb, rest⟩ := List.forall_mem_cons.mp notReady
    have oracle := oracle_eq faults bytes
    rw [List.length_cons, Nat.mul_succ] at oracle covered
    have poll : PollReads s.oracle b ⟨List.replicate (2 * reads.length) false, reads, s.oracle.draws⟩ :=
      oracle ▸ pollReads_listed ..
    match k with
    | 0 => exact ⟨_, rfl, start.phase, out⟩
    | 1 => exact ⟨_, (poll_select start).run, start.phase, out⟩
    | 2 => exact ⟨_, (poll_ask start (by rw [oracle]; rfl)).run, start.phase, out⟩
    | 3 => exact ⟨_, (poll_read start poll).run, start.phase, out⟩
    | 4 => exact ⟨_, (poll_again start poll hb (allowed _)).run, start.phase, out⟩
    | j + 5 =>
      rw [Nat.add_comm, (poll_sleep start poll hb (allowed _)).run_add]
      exact ih (start.waited [b] false (some b) _) unbounded out rest rfl rfl (by omega) allowed

/-- The wait before the command that ends ready, and the command write after it. -/
theorem wait_command {s : State} {cmd rlen : Byte} {args reads bytes : List Byte} {faults : List Bool}
    {draws : Nat} (start : StartsPoll .command s) (latched : Latched cmd args rlen s)
    (notReady : allNotReady reads)
    (oracle : s.oracle = ⟨List.replicate (2 * reads.length) false ++ false :: false :: false :: faults,
      reads ++ 0xFF :: bytes, draws⟩)
    (allowed : pollsAllowed s.params (s.polls + reads.length + 1)) :
    SequencerRun (5 * reads.length + 7) s
      (afterCommand cmd args rlen reads ⟨faults, bytes, draws⟩ s) := by
  obtain ⟨cs, cts, polls⟩ := wait_polls start notReady oracle allowed
  exact polls.trans (command_written start (pollReads_listed ..) latched rfl)

/-- `t` is where the wait that starts in `s` has failed: as many polls as are allowed all read not ready. -/
structure WaitFailed (s t : State) (reads : List Byte) (last : Byte) : Prop where
  notReady : allNotReady reads
  lastNotReady : last ≠ 0xFF
  allowed : pollsAllowed s.params (s.polls + reads.length + 1)
  bound : ¬ pollsAllowed s.params (s.polls + reads.length + 2)
  out : t.out = some [0x03]
  trace : t.trace = s.trace ++ failedWaitEvents s.params.opReadCmdBuff reads last

/-- A poll that reads not ready before a wait that fails is a part of it. -/
theorem WaitFailed.cons {s t : State} {b last : Byte} {reads : List Byte} {cs : Bool} {cts : Option Byte}
    {o : Oracle} (notReady : b ≠ 0xFF) (failed : WaitFailed (waited [b] cs cts o s) t reads last) :
    WaitFailed s t (b :: reads) last where
  notReady := List.forall_mem_cons.mpr ⟨notReady, failed.notReady⟩
  lastNotReady := failed.lastNotReady
  allowed := by simpa [Nat.add_assoc, Nat.add_comm, Nat.add_left_comm] using failed.allowed
  bound := by simpa [Nat.add_assoc, Nat.add_comm, Nat.add_left_comm] using failed.bound
  out := failed.out
  trace := by simpa [failedWaitEvents, pollsThatSleep] using failed.trace

/-- What a run from the start of a wait to the response has met: a bus error, the bound, or a poll that reads
ready. -/
theorem wait_outcome {w : Wait} {k : Nat} {s t : State} (start : StartsPoll w s)
    (allowed : pollsAllowed s.params (s.polls + 1))
    (whole : Host.Core.run Sys2Proof.core k s = .next t) (idle : t.phase = .idle)
    (untaken : t.delivered = s.delivered) :
    t.out = some [0x04] ∨ (∃ reads last, WaitFailed s t reads last) ∨
    ∃ reads cs cts o o' j, allNotReady reads ∧ PollReads o 0xFF o' ∧
      Host.Core.run Sys2Proof.core j (waited reads cs cts o s) = .next t := by
  induction k using Nat.strong_induction_on generalizing s with
  | _ k ih =>
    obtain ⟨b, o', poll⟩ | ⟨n, u, labels, answered⟩ := poll_cases start
    case inr => exact .inl (answered.eq_of_run labels whole idle untaken ▸ answered.out)
    by_cases ready : b = 0xFF
    · subst ready
      exact .inr (.inr ⟨[], s.cs, s.cts, s.oracle, o', k, by simp [allNotReady], poll,
        (waited_nil s).symm ▸ whole⟩)
    · by_cases more : pollsAllowed s.params (s.polls + 2)
      · obtain ⟨j, rfl, rest⟩ := (poll_sleep start poll ready more).resume whole idle
        obtain h | ⟨reads, last, failed⟩ | ⟨reads, cs, cts, o, o'', i, notReady, hready, h⟩ :=
          ih j (by omega) (start.waited [b] false (some b) o') more rest untaken
        · exact .inl h
        · exact .inr (.inl ⟨b :: reads, last, failed.cons ready⟩)
        · rw [waited_waited] at h
          exact .inr (.inr ⟨b :: reads, cs, cts, o, o'', i, List.forall_mem_cons.mpr ⟨ready, notReady⟩,
            hready, h⟩)
      · have answered : Answered [0x03] s (abort .deviceNotResponding (polled b o' s)) :=
          answered_abort .deviceNotResponding start.released rfl
        cases answered.eq_of_run (poll_last start poll ready more) whole idle untaken
        exact .inr (.inl ⟨[], b, by simp [allNotReady], ready, allowed, more, answered.out,
          by simp [failedWaitEvents, pollsThatSleep]⟩)

end Sys2Proof.Machine
end

section
/-! ### The statements on known answers (42_handshake.md R142 to R144, R149, R151) -/

namespace Sys2Proof.Machine

/-- An accepted `EXEC` stands at the start of its first wait (R146). -/
theorem startsPoll_accepted {s s1 : State} {cmd rlen : Byte} {args : List Byte} (released : s.resetLine = [])
    (accepted : exec (.exec cmd args rlen) s = .next s1) : StartsPoll .command s1 := by
  cases accepted
  exact ⟨released, rfl, rfl⟩

/-- Settles O39: the three ways a poll can end (`commandPoll_ready`, `poll_again`, `poll_last`). -/
theorem readinessPoll : Obligations.ReadinessPoll := by
  intro s b faults bytes draws released phase point oracle
  have start : StartsPoll .command s := ⟨released, phase, point⟩
  have poll : PollReads s.oracle b ⟨faults, bytes, draws⟩ := oracle ▸ pollReads_listed ..
  by_cases ready : b = 0xFF
  · subst ready
    exact ⟨_, (commandPoll_ready start poll).run, rfl, rfl, rfl, fun _ => ⟨rfl, rfl, rfl⟩,
      fun h => absurd rfl h, fun h => absurd rfl h⟩
  · by_cases more : pollsAllowed s.params (s.polls + 2)
    · exact ⟨_, (poll_again start poll ready more).run, rfl, rfl, rfl, fun h => absurd h ready,
        fun _ _ => ⟨phase, rfl, rfl, rfl⟩, fun _ h => absurd more h⟩
    · exact ⟨_, (poll_last start poll ready more).run, by simp [pollEvents], by simp, by simp,
        fun h => absurd h ready, fun _ h => absurd h more, fun _ _ => ⟨abort_phase .., abort_out ..⟩⟩

/-- Settles O41: the response poll that reads ready runs on into the response (`response_read`). -/
theorem responseInTheSameSpan : Obligations.ResponseInTheSameSpan := by
  intro s b rlen resp bytes faults draws released phase point latched length
  have start : StartsPoll .response s := ⟨released, phase, point⟩
  constructor
  · intro oracle
    have poll : PollReads s.oracle 0xFF ⟨false :: faults, resp ++ bytes, draws⟩ :=
      oracle ▸ pollReads_listed ..
    have drawn : drawBytes rlen.toNat ⟨faults, resp ++ bytes, draws⟩ = (resp, ⟨faults, bytes, draws⟩) :=
      length ▸ drawBytes_listed resp faults bytes draws
    have labels := response_read start poll latched (drawFault_listed false faults _ draws)
    rw [drawn] at labels
    exact ⟨_, labels.run, by simp [responseEvents, length], rfl, rfl⟩
  · intro notReady oracle
    have poll : PollReads s.oracle b ⟨faults, bytes, draws⟩ := oracle ▸ pollReads_listed ..
    by_cases more : pollsAllowed s.params (s.polls + 2)
    · exact ⟨_, (poll_again start poll notReady more).run, rfl, fun _ => ⟨phase, rfl⟩,
        fun h => absurd more h⟩
    · exact ⟨_, (poll_last start poll notReady more).run, by simp [pollEvents], fun h => absurd h more,
        fun _ => ⟨abort_phase .., abort_out ..⟩⟩

/-- Settles O40: the not-ready bytes fail a wait (`wait_fails`), the first one or, after the first one and the
command (`wait_command`), the second. -/
theorem readinessWaitIsBounded : Obligations.ReadinessWaitIsBounded := by
  intro s s1 cmd rlen last args reads moreBytes most moreFaults released bounded notReady hlast length
    accepted
  have start := startsPoll_accepted released accepted
  have allowed (n : Nat) : pollsAllowed s.params n ↔ n ≤ reads.length + 1 := by
    simp only [pollsAllowed, bounded, length]
  cases accepted
  rw [← length]
  constructor
  · intro bytes faults
    rw [Nat.mul_succ, List.replicate_add, List.append_assoc] at faults
    obtain ⟨u, labels, answered, trace⟩ := wait_fails start notReady hlast (oracle_eq faults bytes)
      ((allowed _).mpr (by simp)) (mt (allowed _).mp (by simp))
    exact ⟨u, labels.run, answered.phase, answered.out, trace⟩
  · intro ready responds hready fits bytes faults
    simp only [Nat.mul_succ, ← Nat.add_assoc, List.replicate_add, List.append_assoc] at faults
    rw [List.append_assoc, List.cons_append] at bytes
    have first := wait_command start ⟨rfl, rfl, rfl⟩ hready (oracle_eq faults bytes)
      ((allowed _).mpr (by simpa using fits))
    have next := afterCommand_starts cmd args ready
      ⟨List.replicate (2 * reads.length) false ++ false :: false :: moreFaults, reads ++ last :: moreBytes,
        s.oracle.draws⟩ start.released responds
    obtain ⟨u, second, answered, trace⟩ := wait_fails next notReady hlast (afterCommand_oracle ..)
      (by simpa using (allowed _).mpr le_rfl)
      (by simpa using mt (allowed (reads.length + 2)).mp (by simp))
    refine ⟨u, ?_, answered.phase, answered.out, ?_⟩
    · rw [show 5 * ready.length + 6 + 5 * (reads.length + 1) =
        5 * ready.length + 7 + (5 * reads.length + 4) by omega]
      exact (first.trans second).run
    · simpa using trace

/-- Settles O46: `wait_goesOn`, in either wait. -/
theorem unboundedWaitGoesOn : Obligations.UnboundedWaitGoesOn := by
  intro s reads k unbounded released out notReady bytes faults covered
  exact ⟨fun phase point => wait_goesOn (w := .command) ⟨released, phase, point⟩ unbounded out notReady bytes
      faults covered,
    fun phase point => wait_goesOn (w := .response) ⟨released, phase, point⟩ unbounded out notReady bytes
      faults covered⟩

/-- Settles O47: `wait_command` with two not-ready bytes and no response due. -/
theorem threePollExample : Obligations.ThreePollExample := by
  intro s s1 moreBytes moreFaults rcb released trace hrcb allowed bytes faults accepted
  have start := startsPoll_accepted released accepted
  cases accepted
  have labels := wait_command (reads := [0x00, 0x00]) start ⟨rfl, rfl, rfl⟩ (by simp [allNotReady])
    (oracle_eq faults bytes) allowed
  exact ⟨_, labels.run, rfl, by rw [afterCommand_trace, trace, hrcb]; rfl⟩

end Sys2Proof.Machine
end

section
/-! ### The trace of a successful `EXEC` (42_handshake.md R150)

Backwards through the run: whatever the oracle says, a response `OK` can stand only behind a first wait that
ended ready, a command that was written, and, where a response is due, a second wait that ended ready. -/

namespace Sys2Proof.Machine

@[simp] theorem pollsThatSleep_length (rcb : Byte) (reads : List Byte) :
    (pollsThatSleep rcb reads).length = 5 * reads.length := by
  simp [pollsThatSleep, List.length_flatMap, pollEvents, Nat.mul_comm]

@[simp] theorem waitEvents_length (rcb : Byte) (reads : List Byte) :
    (waitEvents rcb reads).length = 5 * reads.length + 4 := by
  simp [waitEvents, pollEvents]

@[simp] theorem commandEvents_length (cmd : Byte) (args : List Byte) :
    (commandEvents cmd args).length = 3 := rfl

@[simp] theorem responseEvents_length (rcb : Byte) (resp : List Byte) :
    (responseEvents rcb resp).length = 5 := rfl

/-- A run that goes through the labels to `BUS_ERROR` does not answer `OK`. -/
theorem Answered.not_ok {m j : Nat} {s₀ s u t : State} {result : List Byte}
    (answered : Answered [0x04] s₀ u) (labels : SequencerRun m s u)
    (rest : Host.Core.run Sys2Proof.core j s = .next t) (idle : t.phase = .idle)
    (untaken : t.delivered = s₀.delivered) : t.out ≠ some (0x00 :: result) := by
  rw [answered.eq_of_run labels rest idle untaken, answered.out]
  simp

section
variable {s t : State} {k : Nat} {result : List Byte}
  (whole : Host.Core.run Sys2Proof.core k s = .next t) (idle : t.phase = .idle)
  (untaken : t.delivered = s.delivered) (ok : t.out = some (0x00 :: result))
include whole idle untaken ok

/-- A wait that a successful run goes through ends with a poll that reads ready. -/
theorem wait_success {w : Wait} (start : StartsPoll w s) (allowed : pollsAllowed s.params (s.polls + 1)) :
    ∃ reads cs cts o o' j, allNotReady reads ∧ PollReads o 0xFF o' ∧
      Host.Core.run Sys2Proof.core j (waited reads cs cts o s) = .next t := by
  obtain busError | ⟨reads, last, failed⟩ | ready := wait_outcome start allowed whole idle untaken
  · simp [ok] at busError
  · have out := failed.out
    simp [ok] at out
  · exact ready

/-- A successful run goes through the first wait and the command write. -/
theorem command_success {cmd rlen : Byte} {args : List Byte} (start : StartsPoll .command s)
    (allowed : pollsAllowed s.params (s.polls + 1)) (latched : Latched cmd args rlen s) :
    ∃ pre o j, allNotReady pre ∧
      Host.Core.run Sys2Proof.core j (afterCommand cmd args rlen pre o s) = .next t := by
  obtain ⟨pre, cs, cts, o, o', j, notReady, poll, rest⟩ := wait_success whole idle untaken ok start allowed
  rcases draw : drawFault o' with ⟨_ | _, o''⟩
  case true =>
    obtain ⟨u, labels, answered⟩ := command_failed start poll latched draw
    exact absurd ok (answered.not_ok labels rest idle untaken)
  case false =>
    obtain ⟨i, -, rest⟩ := (command_written start poll latched draw).resume rest idle
    exact ⟨pre, o'', i, notReady, rest⟩

/-- A successful run from the start of the second wait: its events, and the response. -/
theorem response_success {rlen : Byte} (start : StartsPoll .response s)
    (allowed : pollsAllowed s.params (s.polls + 1)) (latched : s.rlen = some rlen) :
    result.length = rlen.toNat ∧ ∃ post, allNotReady post ∧ t.trace = s.trace ++
      (pollsThatSleep s.params.opReadCmdBuff post ++ responseEvents s.params.opReadCmdBuff result) := by
  obtain ⟨post, cs, cts, o, o', j, notReady, poll, rest⟩ := wait_success whole idle untaken ok start allowed
  have next := start.waited post cs cts o
  rcases draw : drawFault o' with ⟨_ | _, o''⟩
  case true =>
    obtain ⟨u, labels, answered⟩ := response_failed next poll latched draw
    exact absurd ok (answered.not_ok labels rest idle untaken)
  case false =>
    have labels := response_read next poll latched draw
    cases (answered_finish _ (by exact start.released) rfl).eq_of_run labels rest idle untaken
    cases ok
    exact ⟨drawBytes_length .., post, notReady, by simp⟩

end

/-- Settles O43: the first wait and the command (`command_success`), then the end of the request or the second
wait and the response (`response_success`). -/
theorem successfulExecTrace : Obligations.SuccessfulExecTrace := by
  intro s s1 t cmd rlen args k result _ released accepted whole idle untaken ok
  have start := startsPoll_accepted released accepted
  cases accepted
  obtain ⟨pre, o, j, notReady, rest⟩ := command_success whole idle untaken ok start
    (pollsAllowed_one s.params) ⟨rfl, rfl, rfl⟩
  refine ⟨pre, notReady, ?_⟩
  by_cases noResponse : rlen = 0
  · have answered := afterCommand_answered cmd args pre o start.released noResponse
    have stands := answered.eq_of_run (.refl _) rest idle untaken
    have trace : t.trace = s.trace ++
        (waitEvents s.params.opReadCmdBuff pre ++ commandEvents cmd args) := stands ▸ afterCommand_trace ..
    have empty : result = [] := by simpa [stands, answered.out] using ok.symm
    exact .inl ⟨noResponse, empty, trace, by simp [trace]; omega⟩
  · have next := afterCommand_starts cmd args pre o start.released noResponse
    obtain ⟨length, post, notReady', trace⟩ := response_success rest idle (by simpa using untaken) ok next
      (by simpa using pollsAllowed_one s.params) (afterCommand_rlen _ _ _ _ noResponse)
    simp only [afterCommand_trace, afterCommand_params, List.append_assoc] at trace
    exact .inr ⟨noResponse, length, post, notReady', by simpa using trace, by simp [trace]; omega⟩

end Sys2Proof.Machine
end

section
/-! ### What an abort leaves (60_exceptions.md R172) -/

namespace Sys2Proof.Machine

/-- An abort leaves the chip deselected and no latch with a value. -/
theorem abort_idleShape (e : BlockError) (s : State) : IdleShape (abort e s) :=
  ⟨abort_point e s, abort_polls e s, abort_cs e s, abort_cts e s, abort_cmd e s, abort_args e s,
    abort_rlen e s, abort_resp e s⟩

/-- Settles O48: one rule of `abort` for each field, the response read off the table of error codes and the
`Desel` off whether chip select was asserted. -/
theorem abortRecord : Obligations.AbortRecord := by
  intro e s
  refine ⟨abort_idleShape e s, abort_phase e s, ?response, ?deselect, abort_params e s, abort_requests e s,
    abort_oracle e s, abort_delivered e s, abort_resetLine e s⟩
  case response => cases e <;> exact abort_out _ s
  case deselect =>
    rw [abort_trace]
    split
    next selected => rfl
    next deselected => exact List.append_nil _

end Sys2Proof.Machine
end

section
/-! ### The datapath stays among the normal numbers (60_exceptions.md R176)

Every value of R121 and R122 lies between 1/5 and 10^10, far from both ends of the normal range. -/

namespace Sys2Proof.Machine

theorem normalRange_of_bounds {x : Rat} (lo : 1 / 5 ≤ x) (hi : x ≤ 10 ^ 10) : normalRange x := by
  constructor
  · calc (2 : Rat) ^ (-1022 : Int) ≤ 2 ^ (-3 : Int) := zpow_le_zpow_right₀ (by norm_num) (by norm_num)
      _ ≤ 1 / 5 := by norm_num
      _ ≤ x := lo
  · calc x ≤ 10 ^ 10 := hi
      _ < 2 ^ (34 : Int) := by norm_num
      _ ≤ 2 ^ (1024 : Int) := zpow_le_zpow_right₀ (by norm_num) (by norm_num)

/-- The bounds of `normalRange_of_bounds`, drawn in to leave room for a rounding. -/
theorem normalRange_roundEven {v : Rat} (lo : 1 / 4 ≤ v) (hi : v ≤ 10 ^ 9) :
    normalRange (roundEven v) := by
  obtain ⟨r1, r2⟩ := roundEven_bounds lo
  exact normalRange_of_bounds (by linarith) (by linarith)

/-- R121's values, on the code of any channel. -/
theorem datapath_normalRange {fc : Nat} (lo : 19520 ≤ fc) (hi : fc ≤ 141728) :
    ∀ x ∈ [f64Div (f64OfNat fc) (f64OfNat 64000),
        f64Add (f64OfNat 43) (f64Div (f64OfNat fc) (f64OfNat 64000)),
        frequencyMhz fc, frequencyHz fc, f64Mul (f64OfNat 2) (f64OfNat 30000000), dividerHz,
        dividerRatio fc],
      normalRange x := by
  have lo' : (19520 : Rat) ≤ fc := by exact_mod_cast lo
  have hi' : (fc : Rat) ≤ 141728 := by exact_mod_cast hi
  obtain ⟨q1, q2⟩ := roundEven_bounds (v := fc / 64000) (by linarith)
  obtain ⟨f1, f2⟩ := abs_le.mp (frequencyMhz_near lo hi)
  obtain ⟨h1, h2⟩ := abs_le.mp (frequencyHz_near lo hi)
  have quotient : f64Div (f64OfNat fc) (f64OfNat 64000) = roundEven (fc / 64000) := by
    rw [f64OfNat_exact (by omega), f64OfNat_exact (by decide)]
    rfl
  have base : f64OfNat 43 = 43 := f64OfNat_exact (by decide)
  have two : f64OfNat 2 = 2 := f64OfNat_exact (by decide)
  have crystal : f64OfNat 30000000 = 30000000 := f64OfNat_exact (by decide)
  rw [quotient, base, two, crystal, dividerHz_eq, dividerRatio_eq]
  simp only [List.forall_mem_cons]
  refine ⟨?quotient, ?sum, ?mhz, ?hz, ?double, ?divider, ?ratio, List.forall_mem_nil _⟩
  case quotient => exact normalRange_roundEven (by linarith) (by linarith)
  case sum => exact normalRange_roundEven (by linarith) (by linarith)
  case mhz => exact normalRange_of_bounds (by linarith) (by linarith)
  case hz => exact normalRange_of_bounds (by linarith) (by linarith)
  case double => exact normalRange_roundEven (by norm_num) (by norm_num)
  case divider => exact normalRange_of_bounds (by norm_num) (by norm_num)
  case ratio => exact normalRange_roundEven (by linarith) (by linarith)

/-- R122's values, on the code of a valid channel, where the integral part of `N` is 57. -/
theorem renormalisation_normalRange {fc : Nat} (lo : 19521 ≤ fc) (hi : fc ≤ 30880) :
    ∀ x ∈ [integralPart (dividerRatio fc), f64Sub (dividerRatio fc) (integralPart (dividerRatio fc)),
        normalInteger (dividerRatio fc), normalFraction (dividerRatio fc),
        f64Mul (normalFraction (dividerRatio fc)) (f64OfNat 524288)],
      normalRange x := by
  obtain ⟨n1, n2⟩ := dividerRatio_range lo hi
  obtain ⟨f1, f2⟩ := normalFraction_range lo hi
  have nonneg : 0 ≤ dividerRatio fc := by linarith
  have scale : f64OfNat 524288 = 524288 := f64OfNat_exact (by decide)
  rw [normalInteger_of_nonneg nonneg, integralPart_of_nonneg nonneg, dividerRatio_floor lo hi,
    Int.cast_ofNat, scale]
  simp only [List.forall_mem_cons]
  refine ⟨?integer, ?fraction, ?integer1, ?fraction1, ?scaled, List.forall_mem_nil _⟩
  case integer => exact normalRange_of_bounds (by norm_num) (by norm_num)
  case fraction => exact normalRange_roundEven (by linarith) (by linarith)
  case integer1 => exact normalRange_roundEven (by norm_num) (by norm_num)
  case fraction1 => exact normalRange_of_bounds (by linarith) (by linarith)
  case scaled => exact normalRange_roundEven (by linarith) (by linarith)

/-- Settles O28: R120's codes run up to 141728 (channel 65535), where the exact frequency is 452.145 MHz, so
that the frequency's rounding error does not matter to its bounds. -/
theorem noExceptionalValues : Obligations.NoExceptionalValues := by
  rintro ch n rfl
  obtain ⟨lo, hi⟩ := channelCode_bounds ch
  have lo' : (19520 : Rat) ≤ channelCode ch := by exact_mod_cast lo
  have hi' : (channelCode ch : Rat) ≤ 141728 := by exact_mod_cast hi
  obtain ⟨f1, f2⟩ := abs_le.mp (frequencyMhz_near lo hi)
  obtain ⟨h1, h2⟩ := abs_le.mp (frequencyHz_near lo hi)
  refine ⟨by linarith, by linarith, by linarith, by linarith, datapath_normalRange lo hi,
    fun first last => ?valid⟩
  case valid =>
    obtain ⟨clo, chi⟩ := channelCode_valid first last
    exact renormalisation_normalRange clo chi

end Sys2Proof.Machine
end

section
/-! ### The OPEN parameters stand for the whole run (70_reset_and_hazards.md R201)

What each operation, each label of the sequencer and each step does to the parameters: nothing. -/

namespace Sys2Proof.Machine

/-- Whichever way a choice goes, the parameters are `p`. -/
theorem params_ite {c : Prop} [Decidable c] {p : Params} {u v : State} (hu : u.params = p)
    (hv : v.params = p) : (if c then u else v).params = p := by
  split
  · exact hu
  · exact hv

theorem pollAsk_params (next : Point) (s : State) : (pollAsk next s).params = s.params := by
  rw [pollAsk_eq]
  exact params_ite (abort_params ..) rfl

theorem pollAgain_params (sleep : Point) (s : State) : (pollAgain sleep s).params = s.params :=
  params_ite (abort_params ..) rfl

theorem exec_params {i : Instr} {s t : State} (h : exec i s = .next t) : t.params = s.params := by
  cases i with
  | crc | pktBuild | pktCheck | pllFreq | exec => cases h; rfl
  | pllParams channel =>
    cases hp : pllParameters channel with
    | ok parameters => cases (exec_pllParams_of_ok s hp).symm.trans h; rfl
    | error e => cases (exec_pllParams_of_error s hp).symm.trans h; exact abort_params e s
  | pllRegs channel =>
    cases hp : pllParameters channel with
    | ok parameters => cases (exec_pllRegs_of_ok s hp).symm.trans h; rfl
    | error e => cases (exec_pllRegs_of_error s hp).symm.trans h; exact abort_params e s

theorem acceptRequest_params {f : Frame} {s t : State} (h : acceptRequest f s = .next t) :
    t.params = s.params := by
  cases hd : decode f with
  | ok i => exact exec_params (acceptRequest_ok f i s hd ▸ h)
  | error e => cases (acceptRequest_illFormed f e s hd).symm.trans h; rfl

/-- A label that answers leaves the parameters; A4, B2, B3, C4 and C5 answer only with their latches full. -/
theorem runPoint_params {p : Point} {s t : State} (h : runPoint p s = .next t) :
    t.params = s.params := by
  cases p with
  | a1 | a5 | b1 | c1 | c7 => cases h; rfl
  | a2 | c2 => cases h; exact pollAsk_params _ s
  | a3 => cases (seqA3_eq s).symm.trans h; exact params_ite (abort_params ..) rfl
  | c3 => cases (seqC3_eq s).symm.trans h; exact params_ite (abort_params ..) rfl
  | c6 => cases h; exact pollAgain_params .c7 (busDeselect s)
  | a4 =>
    cases hc : s.cts with
    | none => simp [runPoint, seqA4, hc] at h
    | some b =>
      cases (seqA4_eq s b hc).symm.trans h
      exact params_ite rfl (pollAgain_params .a5 (busDeselect s))
  | b2 =>
    cases hc : s.cmd with
    | none => simp [runPoint, seqB2, hc] at h
    | some cmd =>
      cases ha : s.args with
      | none => simp [runPoint, seqB2, hc, ha] at h
      | some args =>
        cases (seqB2_eq s cmd args hc ha).symm.trans h
        exact params_ite (abort_params ..) rfl
  | b3 =>
    cases hr : s.rlen with
    | none => simp [runPoint, seqB3, hr] at h
    | some rlen => cases (seqB3_eq s rlen hr).symm.trans h; exact params_ite rfl rfl
  | c4 =>
    cases hr : s.rlen with
    | none => simp [runPoint, seqC4, hr] at h
    | some rlen => cases (seqC4_eq s rlen hr).symm.trans h; exact params_ite (abort_params ..) rfl
  | c5 =>
    cases hr : s.resp with
    | none => simp [runPoint, seqC5, hr] at h
    | some resp => cases (seqC5_eq s resp hr).symm.trans h; rfl

/-- Reset, the host's taking, the wait, an acceptance and a label all leave the parameters. -/
theorem step_params {s t : State} (h : step s = .next t) : t.params = s.params := by
  obtain ⟨rest, -, rfl⟩ | ⟨-, -, f, -, rfl⟩ | ⟨-, -, -, -, rfl⟩ | ⟨-, -, -, f, rest, -, accepted⟩ |
    ⟨-, -, p, -, runs⟩ := step_cases h
  · exact resetBlock_params _
  · exact takeResponse_params f (tick s)
  · exact tick_params s
  · exact acceptRequest_params (s := { tick s with requests := rest }) accepted
  · exact runPoint_params (s := tick s) runs

/-- Settles O53, by induction on the number of steps. -/
theorem parametersNeverChange : Obligations.ParametersNeverChange := by
  intro k
  induction k with
  | zero => intro s t h; cases h; rfl
  | succ k ih =>
    intro s t h
    obtain ⟨u, first, rest⟩ := coreRun_succ_cases h
    exact (ih u t rest).trans (step_params first)

end Sys2Proof.Machine
end

section
/-! ### Requests and their instructions (30_encoding.md R60 to R65)

The encoder against the decoder, in both directions: what each format's decoder accepts is the operand bytes of
the one instruction it answers. -/

namespace Sys2Proof

open Machine

/-! #### From an instruction to its frame -/

theorem decodeOpch_split (opcode : Word) (channel : Half) :
    decodeOpch (be32 opcode ++ be16 channel) = .ok (.pktBuild opcode channel) :=
  congrArg₂ (fun op ch => Except.ok (Instr.pktBuild op ch)) (ofBe32_split opcode) (ofBe16_split channel)

theorem decodeCh_split (mk : Half → Instr) (channel : Half) : decodeCh mk (be16 channel) = .ok (mk channel) :=
  congrArg (Except.ok ∘ mk) (ofBe16_split channel)

/-- A length of at most 255 fits its byte (R62). -/
theorem lengthByte_toNat {bs : List Byte} (h : bs.length ≤ 255) :
    (BitVec.ofNat 8 bs.length).toNat = bs.length := by
  rw [BitVec.toNat_ofNat]
  omega

/-- Settles O1, format by format: a fixed format's fields are split and assembled again, and a length byte
counts the bytes of its list. -/
theorem decodeOfEncode : Obligations.DecodeOfEncode := by
  intro i fits
  cases i with
  | crc data => exact decode_crc (lengthByte_toNat (of_decide_eq_true fits)).symm
  | pktBuild opcode channel => exact decodeOpch_split opcode channel
  | pktCheck packet => exact decode_pktCheck packet
  | pllFreq channel => exact decodeCh_split .pllFreq channel
  | pllParams channel => exact decodeCh_split .pllParams channel
  | pllRegs channel => exact decodeCh_split .pllRegs channel
  | exec cmd args rlen => exact decode_exec cmd rlen (lengthByte_toNat (of_decide_eq_true fits)).symm

/-! #### From a frame to its instruction -/

/-- Splitting what was assembled. -/
theorem be32_ofBe32 (b3 b2 b1 b0 : Byte) : be32 (ofBe32 b3 b2 b1 b0) = [b3, b2, b1, b0] := by
  apply List.map_injective_iff.mpr (fun _ _ => BitVec.eq_of_toNat_eq)
  have := b3.isLt
  have := b2.isLt
  have := b1.isLt
  have := b0.isLt
  rw [be32_toNat, ofBe32_toNat]
  simp only [List.map_cons, List.map_nil, List.cons.injEq, and_true]
  omega

theorem decodeData_ok {ops : List Byte} {i : Instr} (h : decodeData ops = .ok i) :
    ∃ data, i = .crc data ∧ data.length ≤ 255 ∧ ops = BitVec.ofNat 8 data.length :: data := by
  rcases ops with _ | ⟨len, data⟩
  · cases h
  · have counts := (decodeData_accepts_iff len data).mp ⟨i, h⟩
    rw [decodeData, if_pos counts] at h
    cases h
    exact ⟨data, rfl, by omega, by rw [counts, BitVec.ofNat_toNat, BitVec.setWidth_eq]⟩

theorem decodeOpch_ok {ops : List Byte} {i : Instr} (h : decodeOpch ops = .ok i) :
    ∃ opcode channel, i = .pktBuild opcode channel ∧ ops = be32 opcode ++ be16 channel := by
  have length := (decodeOpch_accepts_iff ops).mp ⟨i, h⟩
  match ops, length with
  | [_, _, _, _, _, _], _ =>
    cases h
    exact ⟨_, _, rfl, by rw [be32_ofBe32, be16_ofBe16]; rfl⟩

theorem decodePkt_ok {ops : List Byte} {i : Instr} (h : decodePkt ops = .ok i) :
    ∃ packet, i = .pktCheck packet ∧ ops = packet.toList := by
  have length := (decodePkt_accepts_iff ops).mp ⟨i, h⟩
  match ops, length with
  | [_, _, _, _, _, _, _], _ =>
    cases h
    exact ⟨_, rfl, rfl⟩

theorem decodeCh_ok {mk : Half → Instr} {ops : List Byte} {i : Instr} (h : decodeCh mk ops = .ok i) :
    ∃ channel, i = mk channel ∧ ops = be16 channel := by
  have length := (decodeCh_accepts_iff mk ops).mp ⟨i, h⟩
  match ops, length with
  | [_, _], _ =>
    cases h
    exact ⟨_, rfl, (be16_ofBe16 ..).symm⟩

theorem decodeExec_ok {ops : List Byte} {i : Instr} (h : decodeExec ops = .ok i) :
    ∃ cmd args rlen, i = .exec cmd args rlen ∧ args.length ≤ 255 ∧
      ops = cmd :: BitVec.ofNat 8 args.length :: (args ++ [rlen]) := by
  rcases ops with _ | ⟨cmd, _ | ⟨nargs, tail⟩⟩
  · cases h
  · cases h
  · have counts := (decodeExec_accepts_iff cmd nargs tail).mp ⟨i, h⟩
    have length : (tail.take nargs.toNat).length = nargs.toNat := by
      rw [List.length_take]
      omega
    obtain ⟨rlen, left⟩ : ∃ rlen, tail.drop nargs.toNat = [rlen] :=
      List.length_eq_one_iff.mp (by rw [List.length_drop]; omega)
    simp only [decodeExec, left] at h
    cases h
    exact ⟨cmd, _, rlen, rfl, by omega,
      by rw [length, BitVec.ofNat_toNat, BitVec.setWidth_eq, ← left, List.take_append_drop]⟩

/-- Settles O2: the operation code is read back from its byte, and each format's decoder accepts the operand
bytes of what it answers. -/
theorem encodeOfDecode : Obligations.EncodeOfDecode := by
  intro f i h
  obtain rfl | ⟨opc, ops, rfl, hopc⟩ | ⟨o, ops, rfl⟩ := frame_cases f
  · cases h
  · rw [decode_unknownOpcode hopc] at h
    cases h
  · simp only [decode, opcodeOf_opcodeByte] at h
    cases o with
    | crc =>
      obtain ⟨data, rfl, short, rfl⟩ := decodeData_ok h
      exact ⟨rfl, decide_eq_true short⟩
    | pktBuild => obtain ⟨opcode, channel, rfl, rfl⟩ := decodeOpch_ok h; exact ⟨rfl, rfl⟩
    | pktCheck => obtain ⟨packet, rfl, rfl⟩ := decodePkt_ok h; exact ⟨rfl, rfl⟩
    | pllFreq => obtain ⟨channel, rfl, rfl⟩ := decodeCh_ok h; exact ⟨rfl, rfl⟩
    | pllParams => obtain ⟨channel, rfl, rfl⟩ := decodeCh_ok h; exact ⟨rfl, rfl⟩
    | pllRegs => obtain ⟨channel, rfl, rfl⟩ := decodeCh_ok h; exact ⟨rfl, rfl⟩
    | exec =>
      obtain ⟨cmd, args, rlen, rfl, short, rfl⟩ := decodeExec_ok h
      exact ⟨rfl, decide_eq_true short⟩

/-! #### Lengths and operation codes -/

/-- The length of a frame, by its instruction (R63). -/
def frameLength : Instr → Nat
  | .crc data => 2 + data.length
  | .pktBuild _ _ => 7
  | .pktCheck _ => 8
  | .pllFreq _ | .pllParams _ | .pllRegs _ => 3
  | .exec _ args _ => 4 + args.length

theorem encode_length (i : Instr) : (encode i).length = frameLength i := by
  cases i with
  | crc data => exact Nat.add_comm data.length 2
  | pktBuild | pllFreq | pllParams | pllRegs => rfl
  | pktCheck packet => simp [encode, encodeOperands, frameLength]
  | exec cmd args rlen =>
    simp only [encode, encodeOperands, frameLength, List.length_cons, List.length_append, List.length_nil]
    omega

/-- Settles O4: a frame that decodes is the frame of a well-formed instruction, whose length is
`frameLength`. -/
theorem requestLengths : Obligations.RequestLengths := by
  intro f i h
  obtain ⟨rfl, fits⟩ := encodeOfDecode f i h
  rw [encode_length]
  cases i with
  | crc data =>
    have short : data.length ≤ 255 := of_decide_eq_true fits
    simp only [frameLength, Instr.crc.injEq, reduceCtorEq, false_and, exists_false, iff_false,
      ← List.length_eq_zero_iff]
    omega
  | exec cmd args rlen =>
    have short : args.length ≤ 255 := of_decide_eq_true fits
    refine ⟨?_, ?_, ?_, ?_⟩
    · simp only [frameLength]; omega
    · simp only [frameLength]; omega
    · simp only [frameLength, reduceCtorEq, iff_false]; omega
    · simp only [frameLength, Instr.exec.injEq]
      constructor
      · exact fun length => ⟨cmd, args, rlen, ⟨rfl, rfl, rfl⟩, by omega⟩
      · rintro ⟨_, _, _, ⟨rfl, rfl, rfl⟩, length⟩
        omega
  | pktBuild | pktCheck | pllFreq | pllParams | pllRegs => simp [frameLength]

theorem wrongLength_ne_unknownOpcode (got need : Nat) : wrongLength got need ≠ .unknownOpcode := by
  unfold wrongLength
  split <;> exact IllFormed.noConfusion

theorem decodeData_ne (ops : List Byte) : decodeData ops ≠ .error .unknownOpcode := by
  unfold decodeData
  split
  · nofun
  · split
    · nofun
    · simp [wrongLength_ne_unknownOpcode]

theorem decodeOpch_ne (ops : List Byte) : decodeOpch ops ≠ .error .unknownOpcode := by
  unfold decodeOpch
  split
  · nofun
  · simp [wrongLength_ne_unknownOpcode]

theorem decodePkt_ne (ops : List Byte) : decodePkt ops ≠ .error .unknownOpcode := by
  unfold decodePkt
  split
  · nofun
  · simp [wrongLength_ne_unknownOpcode]

theorem decodeCh_ne (mk : Half → Instr) (ops : List Byte) : decodeCh mk ops ≠ .error .unknownOpcode := by
  unfold decodeCh
  split
  · nofun
  · simp [wrongLength_ne_unknownOpcode]

theorem decodeExec_ne (ops : List Byte) : decodeExec ops ≠ .error .unknownOpcode := by
  unfold decodeExec
  split
  · split <;> nofun
  · nofun

/-- An assigned operation code is never refused as an unknown one. -/
theorem decode_assigned_ne (o : Opcode) (ops : List Byte) :
    decode (opcodeByte o :: ops) ≠ .error .unknownOpcode := by
  simp only [decode, opcodeOf_opcodeByte]
  cases o with
  | crc => exact decodeData_ne ops
  | pktBuild => exact decodeOpch_ne ops
  | pktCheck => exact decodePkt_ne ops
  | pllFreq | pllParams | pllRegs => exact decodeCh_ne _ ops
  | exec => exact decodeExec_ne ops

/-- Settles O5: a byte outside the table is refused whatever follows, one in it is not (`decode_assigned_ne`);
and each of the seven begins a frame of zeros that decodes. -/
theorem operationCodes : Obligations.OperationCodes := by
  refine ⟨fun b rest => ?illegal, ?assigned⟩
  case illegal =>
    rw [← opcodeOf_eq_none_iff]
    refine ⟨fun h => decode_unknownOpcode h rest, fun refused => ?_⟩
    cases h : opcodeOf b with
    | none => rfl
    | some o => exact absurd (opcodeByte_of_opcodeOf h ▸ refused) (decode_assigned_ne o rest)
  case assigned =>
    simp only [List.forall_mem_cons]
    exact ⟨⟨[0], _, rfl⟩, ⟨[0, 0, 0, 0, 0, 0], _, rfl⟩, ⟨[0, 0, 0, 0, 0, 0, 0], _, rfl⟩, ⟨[0, 0], _, rfl⟩,
      ⟨[0, 0], _, rfl⟩, ⟨[0, 0], _, rfl⟩, ⟨[0, 0, 0], _, rfl⟩, List.forall_mem_nil _⟩

/-- Settles O7: the fields of the seven frames, read by the decoder. -/
theorem writtenWordsDecode : Obligations.WrittenWordsDecode := by
  unfold Obligations.WrittenWordsDecode
  decide

end Sys2Proof
end

section
/-! ### Lines of assembly (30_encoding.md R70)

What fits its field is taken as it is; whatever reads as a byte list is a list of bytes, so that nothing else
is let through. -/

namespace Sys2Proof.Machine

@[simp] theorem asmHalf_toNat (v : Half) : asmHalf v.toNat = some v := by
  simp [asmHalf, v.isLt]

@[simp] theorem asmWord_toNat (v : Word) : asmWord v.toNat = some v := by
  simp [asmWord, v.isLt]

theorem asmPacket_toNat (packet : Vector Byte 7) :
    asmPacket (packet.toList.map BitVec.toNat) = some packet := by
  rw [asmPacket, mapM_asmByte_toNat]
  obtain ⟨⟨bytes⟩, h⟩ := packet
  match bytes, h with
  | [_, _, _, _, _, _, _], _ => rfl

theorem asmByte_refuses {n : Nat} (h : 2 ^ 8 ≤ n) : asmByte n = none := if_neg (not_lt.mpr h)

theorem asmHalf_refuses {n : Nat} (h : 2 ^ 16 ≤ n) : asmHalf n = none := if_neg (not_lt.mpr h)

theorem asmWord_refuses {n : Nat} (h : 2 ^ 32 ≤ n) : asmWord n = none := if_neg (not_lt.mpr h)

/-- Numbers that read as bytes are the bytes' values. -/
theorem mapM_asmByte_some {ns : List Nat} {bs : List Byte} (h : ns.mapM asmByte = some bs) :
    ns = bs.map BitVec.toNat := by
  induction ns generalizing bs with
  | nil => cases h; rfl
  | cons n ns ih =>
    by_cases fits : n < 2 ^ 8
    · cases rest : ns.mapM asmByte with
      | none => simp [asmByte, rest] at h
      | some cs =>
        simp only [List.mapM_cons, asmByte, fits, if_true, rest, Option.pure_def, Option.bind_eq_bind,
          Option.bind_some, Option.some.injEq] at h
        subst h
        rw [List.map_cons, BitVec.toNat_ofNat, Nat.mod_eq_of_lt fits, ← ih rest]
    · simp [asmByte_refuses (not_lt.mp fits)] at h

theorem mapM_asmByte_refuses {ns : List Nat} (h : ∃ n ∈ ns, 2 ^ 8 ≤ n) : ns.mapM asmByte = none := by
  obtain ⟨n, mem, big⟩ := h
  rw [Option.eq_none_iff_forall_ne_some]
  intro bs read
  obtain ⟨b, -, rfl⟩ := List.mem_map.mp (mapM_asmByte_some read ▸ mem)
  exact absurd b.isLt (not_lt.mpr big)

theorem asmBytes_refuses {ns : List Nat} (h : 255 < ns.length ∨ ∃ n ∈ ns, 2 ^ 8 ≤ n) :
    asmBytes ns = none := by
  unfold asmBytes
  split
  next short => exact mapM_asmByte_refuses (h.resolve_left (not_lt.mpr short))
  next long => rfl

theorem asmPacket_refuses {ns : List Nat} (h : ns.length ≠ 7 ∨ ∃ n ∈ ns, 2 ^ 8 ≤ n) :
    asmPacket ns = none := by
  unfold asmPacket
  split
  next read =>
    have bytes := mapM_asmByte_some read
    obtain length | big := h
    · exact absurd (by rw [bytes]; rfl) length
    · rw [mapM_asmByte_refuses big] at read
      cases read
  next => rfl

/-- A byte list that is too long is refused whatever its bytes. -/
theorem asmBytes_map_toNat (bs : List Byte) :
    asmBytes (bs.map BitVec.toNat) = if bs.length ≤ 255 then some bs else none := by
  split
  next short => exact asmBytes_toNat short
  next long => exact asmBytes_refuses (.inl (by rwa [List.length_map, ← not_le]))

theorem asmExec_refuses {cmd rlen : Nat} {ns : List Nat}
    (h : asmByte cmd = none ∨ asmBytes ns = none ∨ asmByte rlen = none) :
    asmExec [.num cmd, .bytes ns, .num rlen] = none := by
  obtain h | h | h := h <;> simp [asmExec, h]

/-! #### The rows of the mnemonics -/

section
variable (ops : HostOpcodes) (args : List AsmOperand)

theorem assemble_crc : assemble ops ⟨"CRC".toList, args⟩ = (asmCrc args).map encode := rfl
theorem assemble_pktBuild : assemble ops ⟨"PKT_BUILD".toList, args⟩ = (asmPktBuild args).map encode := rfl
theorem assemble_pktCheck : assemble ops ⟨"PKT_CHECK".toList, args⟩ = (asmPktCheck args).map encode := rfl
theorem assemble_pllFreq :
    assemble ops ⟨"PLL_FREQ".toList, args⟩ = (asmChannel .pllFreq args).map encode := rfl
theorem assemble_pllParams :
    assemble ops ⟨"PLL_PARAMS".toList, args⟩ = (asmChannel .pllParams args).map encode := rfl
theorem assemble_pllRegs :
    assemble ops ⟨"PLL_REGS".toList, args⟩ = (asmChannel .pllRegs args).map encode := rfl
theorem assemble_exec : assemble ops ⟨"EXEC".toList, args⟩ = (asmExec args).map encode := rfl

end

/-- Settles O9: each mnemonic's row of `asmTable`, then the operands: those that fit are the instruction's, and
one that does not refuses the line. -/
theorem assemblyLines : Obligations.AssemblyLines := by
  intro ops
  simp only [assemble_crc, assemble_pktBuild, assemble_pktCheck, assemble_pllFreq, assemble_pllParams,
    assemble_pllRegs, assemble_exec, asmCrc, asmPktCheck, asmChannel]
  refine ⟨fun ds => ?crc, fun op ch => ?pktBuild, fun p => ?pktCheck, fun ch => ?channel,
    fun cmd rlen as => ?exec, fun ch big => ?bigChannel, fun op ch big => ?bigOpcode,
    fun ps bad => ?badPacket, fun ns bad => ?badBytes, fun cmd rlen ns big => ?bigByte⟩
  case crc =>
    rw [asmBytes_map_toNat]
    split <;> rfl
  case pktBuild => simp [asmPktBuild, encode, opcodeOfInstr, opcodeByte, encodeOperands]
  case pktCheck => rw [asmPacket_toNat]; rfl
  case channel => rw [asmHalf_toNat]; exact ⟨rfl, rfl, rfl⟩
  case exec =>
    simp only [asmExec, asmByte_toNat, asmBytes_map_toNat]
    split <;> rfl
  case bigChannel => rw [asmHalf_refuses big]; exact ⟨rfl, rfl, rfl⟩
  case bigOpcode =>
    obtain big | big := big
    · simp [asmPktBuild, asmWord_refuses big]
    · simp [asmPktBuild, asmHalf_refuses big]
  case badPacket => rw [asmPacket_refuses bad]; rfl
  case badBytes =>
    have refused := asmBytes_refuses bad
    refine ⟨by rw [refused]; rfl, fun cmd rlen => ?_⟩
    rw [asmExec_refuses (.inr (.inl refused))]
    rfl
  case bigByte =>
    rw [asmExec_refuses (big.imp asmByte_refuses fun h => .inr (asmByte_refuses h))]
    rfl

end Sys2Proof.Machine
end

section
/-! ### The replay of a configuration table (30_encoding.md R80, 90_conflicts.md C11) -/

namespace Sys2Proof.Machine

/-- The bytes of one table entry: its length, its command and the command's arguments (R80). -/
def configEntry (e : Byte × List Byte) : List Byte := BitVec.ofNat 8 (e.2.length + 1) :: e.1 :: e.2

/-- One entry of 1 to 16 bytes is one `SEND`, and takes one unit of fuel. -/
theorem replayEntries_entry {e : Byte × List Byte} (short : e.2.length ≤ 15) (fuel : Nat)
    (tail : List Byte) :
    replayEntries (fuel + 1) (configEntry e ++ tail) =
      ⟨.exec e.1 e.2 0 :: (replayEntries fuel tail).issued, (replayEntries fuel tail).malformed⟩ := by
  obtain ⟨cmd, args⟩ := e
  have count : (BitVec.ofNat 8 (args.length + 1)).toNat = args.length + 1 := by
    rw [BitVec.toNat_ofNat]
    dsimp only at short
    omega
  have nonzero : BitVec.ofNat 8 (args.length + 1) ≠ 0 := fun zero => by simp [zero] at count
  have fits : ¬ (16 < args.length + 1 ∨ (cmd :: (args ++ tail)).length < args.length + 1) := by
    simp at short ⊢
    omega
  simp only [configEntry, List.cons_append, replayEntries, count, if_neg nonzero, if_neg fits]
  simp [sendRequest]

/-- Whole entries in a row: what follows them is replayed with the fuel that is left. -/
theorem replayEntries_entries {entries : List (Byte × List Byte)} (short : ∀ e ∈ entries, e.2.length ≤ 15)
    (fuel : Nat) (tail : List Byte) :
    replayEntries (entries.length + fuel) (entries.flatMap configEntry ++ tail) =
      ⟨entries.map (fun e => .exec e.1 e.2 0) ++ (replayEntries fuel tail).issued,
        (replayEntries fuel tail).malformed⟩ := by
  induction entries with
  | nil => simp
  | cons e entries ih =>
    obtain ⟨first, rest⟩ := List.forall_mem_cons.mp short
    rw [List.flatMap_cons, List.append_assoc, List.length_cons, Nat.add_right_comm,
      replayEntries_entry first, ih rest]
    rfl

/-- A table of whole entries gives its replay fuel for every entry and, if a byte follows, for one more. -/
theorem replayTable_entries {entries : List (Byte × List Byte)} (short : ∀ e ∈ entries, e.2.length ≤ 15)
    (tail : List Byte) : ∃ fuel, tail.length ≤ fuel ∧
    replayTable (entries.flatMap configEntry ++ tail) =
      ⟨entries.map (fun e => .exec e.1 e.2 0) ++ (replayEntries fuel tail).issued,
        (replayEntries fuel tail).malformed⟩ := by
  have enough : entries.length ≤ (entries.flatMap configEntry).length := by
    rw [List.length_flatMap]
    simpa using List.card_nsmul_le_sum (entries.map fun e => (configEntry e).length) 1
      (List.forall_mem_map.mpr fun e _ => Nat.succ_pos _)
  obtain ⟨more, hmore⟩ := Nat.le.dest enough
  refine ⟨more + tail.length, by omega, ?_⟩
  rw [replayTable, List.length_append, ← hmore, Nat.add_assoc, replayEntries_entries short]

theorem replayEntries_nil (fuel : Nat) : replayEntries fuel [] = ⟨[], false⟩ := by
  cases fuel <;> rfl

theorem replayEntries_terminator (fuel : Nat) (tail : List Byte) :
    replayEntries fuel (0 :: tail) = ⟨[], false⟩ := by
  cases fuel <;> rfl

theorem replayEntries_malformed (fuel : Nat) {len : Byte} {tail : List Byte} (nonzero : len ≠ 0)
    (bad : 16 < len.toNat ∨ tail.length < len.toNat) :
    replayEntries (fuel + 1) (len :: tail) = ⟨[], true⟩ := by
  rw [replayEntries, if_neg nonzero, if_pos bad]

/-- Settles O11: the entries are replayed one by one (`replayTable_entries`), and what follows them ends the
replay. -/
theorem configurationReplay : Obligations.ConfigurationReplay := by
  intro entries short
  refine ⟨?wholeTable, fun tail => ?terminator, fun len tail nonzero bad => ?malformed⟩
  case wholeTable =>
    obtain ⟨fuel, -, replayed⟩ := replayTable_entries short []
    rw [replayEntries_nil, List.append_nil, List.append_nil] at replayed
    exact replayed
  case terminator =>
    obtain ⟨fuel, -, replayed⟩ := replayTable_entries short (0 :: tail)
    rw [replayEntries_terminator, List.append_nil] at replayed
    exact replayed
  case malformed =>
    obtain ⟨fuel, enough, replayed⟩ := replayTable_entries short (len :: tail)
    obtain ⟨fuel, rfl⟩ := Nat.exists_eq_add_of_lt (Nat.lt_of_lt_of_le (Nat.succ_pos _) enough)
    rw [replayEntries_malformed _ nonzero bad, List.append_nil] at replayed
    exact replayed

end Sys2Proof.Machine
end

section
/-! ### Built packets and candidate tables (40_crc.md R103, R107) -/

namespace Sys2Proof.Machine

/-- A packet `PKT_BUILD` answered carries its header's CRC. -/
theorem packet_built {table : CrcTable} {op : Word} {ch : Half} {p : Vector Byte 7}
    (built : p.toList = buildPacket table op ch) : crc8 table (p.toList.take 6) = p[6] := by
  have split := packet_split p
  rw [built, buildPacket_take, buildPacket] at split
  rw [built, buildPacket_take]
  simpa using split

/-- Two packets with the same first six bytes are told apart by the seventh. -/
theorem packet_last_ne {p q : Vector Byte 7} (same : q.toList.take 6 = p.toList.take 6) (different : q ≠ p) :
    q[6] ≠ p[6] := by
  intro last
  have bytes : q.toList = p.toList := by rw [packet_split q, packet_split p, same, last]
  exact different (Vector.toList_inj.mp bytes)

/-- Settles O21: the built packet's byte 6 is the CRC of the six bytes before it, so another byte is not. -/
theorem builtPacketsCheck : Obligations.BuiltPacketsCheck := by
  intro s t op ch p q built out
  cases (exec_pktBuild op ch s).symm.trans built
  have crc := packet_built (List.cons.inj (Option.some.inj out)).2.symm
  refine ⟨(exec_pktCheck_matches_iff p s).mpr crc, fun same different => ?_⟩
  rw [exec_pktCheck, if_neg]
  rw [same, crc]
  exact (packet_last_ne same different).symm

/-- Settles O22: the candidates' two properties, and three CRCs of six bytes computed. -/
theorem candidateTables : Obligations.CandidateTables :=
  ⟨fun _ h => ⟨candidate_entry_zero h, candidate_injective h⟩, by decide +kernel, by decide +kernel,
    by decide +kernel⟩

end Sys2Proof.Machine
end

section
/-! ### The closed forms of the registers (41_pll.md R123, R127 to R129) -/

namespace Sys2Proof.Machine

/-- The three low bytes of a field that is written as a number. -/
theorem be24_ofNat {n : Nat} (h : n < 2 ^ 32) :
    be24 (BitVec.ofNat 32 n) = [BitVec.ofNat 8 (n / 2 ^ 16), BitVec.ofNat 8 (n / 2 ^ 8), BitVec.ofNat 8 n] := by
  simp only [be24, extractLsb'_eq_ofNat, BitVec.toNat_ofNat, Nat.mod_eq_of_lt h, Nat.pow_zero, Nat.div_one]

/-- A byte of a number is its value mod 2^8 (R8). -/
theorem ofNat_mod_byte (n : Nat) : BitVec.ofNat 8 (n % 2 ^ 8) = BitVec.ofNat 8 n := by
  apply BitVec.eq_of_toNat_eq
  simp only [BitVec.toNat_ofNat, Nat.mod_mod]

/-- The parameters of a valid channel, in closed form. -/
theorem pllParameters_closedForm {ch : Half} (lo : 1 ≤ ch.toNat) (hi : ch.toNat ≤ 10111) :
    pllParameters ch = .ok (56, BitVec.ofNat 32 (closedFrac (channelCode ch))) := by
  obtain ⟨clo, chi⟩ := channelCode_valid lo hi
  rw [pllParameters_valid lo hi, pllInte_dividerRatio clo chi, pllFrac_dividerRatio clo chi]

/-- Settles O31: the bytes of `BE32(FRAC)`, the first of them zero. -/
theorem pllParamsClosedForm : Obligations.PllParamsClosedForm := by
  rintro s ch lo hi _ _ rfl rfl
  obtain ⟨clo, chi⟩ := channelCode_valid lo hi
  obtain ⟨-, most⟩ := closedFrac_bounds clo chi
  have small : (BitVec.ofNat 32 (closedFrac (channelCode ch))).toNat < 2 ^ 24 := by
    rw [BitVec.toNat_ofNat]
    omega
  rw [exec_pllParams_of_ok s (pllParameters_closedForm lo hi), be32_eq_be24 small, be24_ofNat (by omega)]
  rfl

/-- Settles O33: the bytes `PLL_REGS` answers are the same, and `FRAC / 2^16` is read off its bounds. -/
theorem pllRegsClosedForm : Obligations.PllRegsClosedForm := by
  intro s ch lo hi fc frac hfc hfrac
  obtain ⟨clo, chi⟩ := channelCode_valid lo hi
  obtain ⟨least, most⟩ := closedFrac_bounds clo chi
  have closed : closedFrac (channelCode ch) = frac := by rw [hfrac, hfc]; rfl
  rw [closed] at least most
  refine ⟨by omega, ?_⟩
  rw [exec_pllRegs_of_ok s (pllParameters_closedForm lo hi), closed, be24_ofNat (by omega), ofNat_mod_byte,
    ofNat_mod_byte]

/-- R129's relation, its two registers taken as numbers. -/
theorem relationHz_eq (inte : Byte) (frac : Word) :
    relationHz inte frac = (inte.toNat + frac.toNat / 524288) * 7500000 := by
  unfold relationHz Config.fracScale Config.xtalHz Config.pllOutdiv
  norm_num

/-- Settles O35: the exact frequency is `(FRAC + r/375) * 7.5 MHz / 2^19 + 56 * 7.5 MHz` with `r`, the remainder
of R123's quotient, below 375. -/
theorem registersGiveTheFrequency : Obligations.RegistersGiveTheFrequency := by
  rintro ch lo hi _ _ rfl rfl
  obtain ⟨clo, chi⟩ := channelCode_valid lo hi
  obtain ⟨w, r, division, small, closed⟩ : ∃ w r, (channelCode ch + 16000) * 4096 = 375 * w + r ∧ r < 375 ∧
      closedFrac (channelCode ch) = 2 ^ 19 + w :=
    ⟨_, _, (Nat.div_add_mod _ 375).symm, Nat.mod_lt _ (by decide), rfl⟩
  have division' : ((channelCode ch + 16000) * 4096 : Rat) = 375 * w + r := by exact_mod_cast division
  have small' : (r : Rat) < 375 := by exact_mod_cast small
  have nonneg : (0 : Rat) ≤ r := r.cast_nonneg
  rw [relationHz_eq, pllInte_dividerRatio clo chi, pllFrac_channel lo hi, closed]
  push_cast
  constructor <;> norm_num <;> linarith

end Sys2Proof.Machine
end

section
/-! ### Rounding to nearest, ties to even (00_scope.md R9, 92_eei_decisions.md D7)

First the rounding to an integer; then binary64 numbers against the multiples of the unit in the last place at
`v`: one that is not such a multiple lies below the binade of `v`, and the binade's end is nearer. -/

namespace Sys2Proof.Machine

/-! #### Integers -/

/-- Distinct integers are at least 1 apart. -/
theorem one_le_abs_sub {m n : Int} (h : m ≠ n) : (1 : Rat) ≤ |(m : Rat) - n| := by
  exact_mod_cast Int.one_le_abs (sub_ne_zero.mpr h)

/-- Another integer than the rounded one is at least a half away. -/
theorem half_le_of_ne_tiesToEven {q : Rat} {n : Int} (h : n ≠ tiesToEven q) : 1 / 2 ≤ |(n : Rat) - q| := by
  have apart := one_le_abs_sub h
  have error := tiesToEven_error q
  have triangle : |(n : Rat) - tiesToEven q| ≤ |(n : Rat) - q| + |(tiesToEven q : Rat) - q| := by
    rw [abs_sub_comm (tiesToEven q : Rat) q]
    exact abs_sub_le (n : Rat) q (tiesToEven q)
  linarith

theorem tiesToEven_nearest (q : Rat) (n : Int) : |(tiesToEven q : Rat) - q| ≤ |(n : Rat) - q| := by
  by_cases h : n = tiesToEven q
  · rw [h]
  · exact (tiesToEven_error q).trans (half_le_of_ne_tiesToEven h)

/-- Halfway between two integers, the even one is taken. -/
theorem tiesToEven_even {q : Rat} (tie : |(tiesToEven q : Rat) - q| = 1 / 2) : ∃ k, tiesToEven q = 2 * k := by
  have below : (q.floor : Rat) ≤ q := Int.floor_le q
  have above : q < (q.floor : Rat) + 1 := Int.lt_floor_add_one q
  unfold tiesToEven at tie ⊢
  dsimp only at tie ⊢
  split
  next near =>
    rw [if_pos near, abs_sub_comm, abs_of_nonneg (by linarith)] at tie
    linarith
  next notBelow =>
    rw [if_neg notBelow] at tie
    split
    next near =>
      rw [if_pos near, abs_of_nonneg (by push_cast; linarith)] at tie
      push_cast at tie
      linarith
    next =>
      split
      next even => exact ⟨q.floor / 2, by omega⟩
      next odd => exact ⟨(q.floor + 1) / 2, by omega⟩

/-! #### Multiples of the unit in the last place -/

theorem ulpExp_ge (v : Rat) : -1074 ≤ ulpExp v := by
  unfold ulpExp
  split <;> omega

/-- The distance from a multiple of the unit, measured in units. -/
theorem abs_multiple_sub (v : Rat) (z : Int) :
    |(z : Rat) * pow2 (ulpExp v) - v| = |(z : Rat) - v / pow2 (ulpExp v)| * pow2 (ulpExp v) := by
  have unit := pow2_pos (ulpExp v)
  rw [← abs_of_pos unit, ← abs_mul, abs_of_pos unit, sub_mul, div_mul_cancel₀ _ unit.ne']

/-- 53 bits of units reach beyond `v`. -/
theorem abs_lt_pow2_ulpExp (v : Rat) : |v| < pow2 (ulpExp v + 53) := by
  rcases eq_or_ne v 0 with rfl | hv
  · rw [abs_zero]
    exact pow2_pos _
  · refine (binade_spec hv).2.trans_le (pow2_le_pow2 ?_)
    unfold ulpExp
    split <;> omega

/-- An end of the binade of `v`, on the side of 0, is nearer to `v` than any number nearer to 0. -/
theorem binadeEnd_near {v B y : Rat} (inside : B ≤ |v|) (hy : |y| < B) :
    ∃ s : Int, |(s : Rat) * B - v| < |y - v| := by
  rcases abs_cases v with ⟨value, -⟩ | ⟨value, -⟩
  · refine ⟨1, ?_⟩
    have far := neg_abs_le (y - v)
    have := le_abs_self y
    rw [Int.cast_one, one_mul, abs_sub_comm, abs_of_nonneg (by linarith)]
    linarith
  · refine ⟨-1, ?_⟩
    have far := le_abs_self (y - v)
    have := neg_abs_le y
    rw [Int.cast_neg, Int.cast_one, neg_one_mul, abs_of_nonneg (by linarith)]
    linarith

/-- A binary64 number is a multiple of the unit at `v`, or some multiple is strictly nearer to `v`. -/
theorem multiple_or_nearer (v : Rat) {y : Rat} (h : representable y) :
    (∃ z : Int, y = z * pow2 (ulpExp v)) ∨ ∃ z : Int, |z * pow2 (ulpExp v) - v| < |y - v| := by
  obtain ⟨m, e, bits, least, rfl⟩ := h
  rw [← pow2_eq_zpow]
  rcases le_or_gt (ulpExp v) e with coarse | fine
  · obtain ⟨n, hn⟩ := Int.le.dest coarse
    refine .inl ⟨m * 2 ^ n, ?_⟩
    rw [← hn, pow2_add, pow2_eq_zpow n, zpow_natCast]
    push_cast
    ring
  rcases eq_or_ne v 0 with rfl | hv
  · rcases eq_or_ne ((m : Rat) * pow2 e) 0 with zero | nonzero
    · exact .inl ⟨0, by rw [zero, Int.cast_zero, zero_mul]⟩
    · exact .inr ⟨0, by simpa only [Int.cast_zero, zero_mul, sub_zero, abs_zero] using abs_pos.mpr nonzero⟩
  have normal : binade v = 52 + ulpExp v := by
    unfold ulpExp at fine ⊢
    split at fine <;> omega
  have small : |(m : Rat) * pow2 e| < pow2 (binade v) := by
    have magnitude : |(m : Rat)| < pow2 53 := by
      rw [pow2_eq_zpow, ← Int.cast_abs, Int.abs_eq_natAbs]
      exact_mod_cast bits
    have unit := pow2_pos e
    calc |(m : Rat) * pow2 e| = |(m : Rat)| * pow2 e := by rw [abs_mul, abs_of_pos unit]
      _ < pow2 53 * pow2 e := by gcongr
      _ = pow2 (53 + e) := (pow2_add 53 e).symm
      _ ≤ pow2 (binade v) := pow2_le_pow2 (by omega)
  obtain ⟨s, near⟩ := binadeEnd_near (binade_spec hv).1 small
  refine .inr ⟨s * 2 ^ 52, ?_⟩
  rw [normal, pow2_add, pow2_eq_zpow 52] at near
  push_cast
  rwa [mul_assoc]

/-! #### The rounding of a binary64 operation -/

theorem roundEven_nearest_multiple (v : Rat) (z : Int) :
    |roundEven v - v| ≤ |z * pow2 (ulpExp v) - v| := by
  rw [roundEven, abs_multiple_sub, abs_multiple_sub]
  exact mul_le_mul_of_nonneg_right (tiesToEven_nearest _ z) (pow2_pos _).le

/-- No binary64 number is nearer. -/
theorem roundEven_nearest (v : Rat) {y : Rat} (h : representable y) : |roundEven v - v| ≤ |y - v| := by
  obtain ⟨z, rfl⟩ | ⟨z, nearer⟩ := multiple_or_nearer v h
  · exact roundEven_nearest_multiple v z
  · exact (roundEven_nearest_multiple v z).trans nearer.le

/-- A rounded value has 53 bits of units, or is the next power of two. -/
theorem roundEven_representable (v : Rat) : representable (roundEven v) := by
  have unit := pow2_pos (ulpExp v)
  have quotient : |v / pow2 (ulpExp v)| < 2 ^ 53 := by
    rw [abs_div, abs_of_pos unit, div_lt_iff₀ unit]
    calc |v| < pow2 (ulpExp v + 53) := abs_lt_pow2_ulpExp v
      _ = 2 ^ 53 * pow2 (ulpExp v) := by rw [pow2_add, mul_comm, pow2_eq_zpow 53]; rfl
  have bits : (tiesToEven (v / pow2 (ulpExp v))).natAbs ≤ 2 ^ 53 := by
    have magnitude : |(tiesToEven (v / pow2 (ulpExp v)) : Rat)| < 2 ^ 53 + 1 := by
      have error := tiesToEven_error (v / pow2 (ulpExp v))
      have triangle := abs_sub_abs_le_abs_sub (tiesToEven (v / pow2 (ulpExp v)) : Rat)
        (v / pow2 (ulpExp v))
      linarith
    rw [← Int.cast_abs, Int.abs_eq_natAbs] at magnitude
    exact Nat.le_of_lt_succ (by exact_mod_cast magnitude)
  rcases bits.lt_or_eq with fewer | next
  · exact ⟨_, _, fewer, ulpExp_ge v, by rw [roundEven, pow2_eq_zpow]⟩
  · obtain ⟨half, twice⟩ : ∃ half, tiesToEven (v / pow2 (ulpExp v)) = half * 2 :=
      ⟨tiesToEven (v / pow2 (ulpExp v)) / 2, by omega⟩
    refine ⟨half, ulpExp v + 1, by omega, (ulpExp_ge v).trans (by omega), ?_⟩
    rw [roundEven, twice, zpow_add₀ (by norm_num), pow2_eq_zpow]
    push_cast
    ring

/-- Settles O25: the three claims are about the multiples of the unit at `v`, where the rounding is that to an
integer; a number as near as the rounded one is such a multiple, a half of a unit away on the other side. -/
theorem roundingIsNearestEven : Obligations.RoundingIsNearestEven := by
  refine fun v => ⟨roundEven_representable v, fun y hy => roundEven_nearest v hy, fun y hy tie different => ?_⟩
  obtain ⟨z, rfl⟩ | ⟨z, nearer⟩ := multiple_or_nearer v hy
  · have unit := pow2_pos (ulpExp v)
    rw [roundEven, abs_multiple_sub, abs_multiple_sub] at tie
    have units := mul_right_cancel₀ unit.ne' tie
    have other : z ≠ tiesToEven (v / pow2 (ulpExp v)) := by
      rintro rfl
      exact different rfl
    have half : |(tiesToEven (v / pow2 (ulpExp v)) : Rat) - v / pow2 (ulpExp v)| = 1 / 2 :=
      le_antisymm (tiesToEven_error _) (units ▸ half_le_of_ne_tiesToEven other)
    obtain ⟨k, even⟩ := tiesToEven_even half
    exact ⟨k, by rw [roundEven, even]⟩
  · exact absurd (roundEven_nearest_multiple v z) (by rw [tie]; exact not_le.mpr nearer)

/-! #### The check of the renormalised fraction (41_pll.md R122) -/

/-- A rounding does not pass a binary64 number. -/
theorem roundEven_le {v b : Rat} (hb : representable b) (h : v ≤ b) : roundEven v ≤ b := by
  by_contra passed
  have nearest := roundEven_nearest v hb
  rw [abs_of_nonneg (by linarith), abs_of_nonneg (by linarith)] at nearest
  linarith

theorem le_roundEven {v b : Rat} (hb : representable b) (h : b ≤ v) : b ≤ roundEven v := by
  by_contra passed
  have nearest := roundEven_nearest v hb
  rw [abs_of_nonpos (by linarith), abs_of_nonpos (by linarith)] at nearest
  linarith

/-- Settles O29: `N ⊖ ip` is the rounding of a number between 0 and 1 and stays there, and so does `fp1`
between 1 and 2. -/
theorem fractionCheckPasses : Obligations.FractionCheckPasses := by
  intro n nonneg _
  have one : representable 1 := ⟨1, 0, by decide, by decide, by norm_num⟩
  have two : representable 2 := ⟨2, 0, by decide, by decide, by norm_num⟩
  have floor_le : (n.floor : Rat) ≤ n := Int.floor_le n
  have lt_floor : n < (n.floor : Rat) + 1 := Int.lt_floor_add_one n
  have least : 0 ≤ roundEven (n - n.floor) := roundEven_nonneg (by linarith)
  have most : roundEven (n - n.floor) ≤ 1 := roundEven_le one (by linarith)
  rw [fractionInRange, normalFraction_of_nonneg nonneg, f64OfNat_one, f64OfNat_exact (n := 2) (by decide),
    Bool.and_eq_true, decide_eq_true_iff, decide_eq_true_iff]
  exact ⟨le_roundEven one (by linarith), roundEven_le (by exact_mod_cast two) (by push_cast; linarith)⟩

end Sys2Proof.Machine
end

section
/-! ### What a request can come to (10_state.md, 20_memory.md R46, R140, R146) -/

namespace Sys2Proof.Machine

/-- Settles O12: the step takes the request off the port and runs what it decodes to. -/
theorem stepRunsDecodedRequest : Obligations.StepRunsDecodedRequest := by
  intro s f rest i hr hp ho hq decoded
  rw [step_accept s f rest hr hp ho hq, acceptRequest_ok f i _ decoded]

/-- Settles O14: the two ways an idle block can step without accepting a request. -/
theorem idleBlockWaits : Obligations.IdleBlockWaits := fun s hr hp =>
  ⟨fun f ho => step_take s f hr hp ho, step_wait s hr hp⟩

/-- Settles O37: an `EXEC` is accepted as R146 says. -/
theorem execAccepted : Obligations.ExecAccepted := fun _ _ _ _ => rfl

/-- Settles O38: the sequencer runs the label it stands at. -/
theorem stepRunsSequencer : Obligations.StepRunsSequencer := fun s p => step_busy s p

/-! #### Legal responses (R66 to R68) -/

theorem legalResponse_ok {result : List Byte} (h : result.length ≤ 255) :
    legalResponse (okFrame result) := .inl ⟨result, rfl, h⟩

theorem legalResponse_error (e : BlockError) : legalResponse (errorFrame e) := by
  cases e <;> simp [legalResponse, errorFrame, errorCode]

/-! #### The operations, said once -/

/-- `s` with an `EXEC` accepted (R146). -/
abbrev execStarted (cmd : Byte) (args : List Byte) (rlen : Byte) (s : State) : State :=
  { s with
    cmd := some cmd, args := some args, rlen := some rlen
    phase := .execPre, polls := 0, point := some .a1 }

/-- Every operation answers at once, raises an error, or is an `EXEC` that begins. -/
theorem exec_cases (i : Instr) (s : State) :
    (∃ f, legalResponse f ∧ exec i s = .next (respond f s)) ∨ (∃ e, exec i s = .next (abort e s)) ∨
      ∃ cmd args rlen, i = .exec cmd args rlen ∧ exec i s = .next (execStarted cmd args rlen s) := by
  cases i with
  | crc data => exact .inl ⟨_, legalResponse_ok (by simp), exec_crc data s⟩
  | pktBuild op ch => exact .inl ⟨_, legalResponse_ok (by simp), exec_pktBuild op ch s⟩
  | pktCheck packet => exact .inl ⟨_, legalResponse_ok (by simp), exec_pktCheck packet s⟩
  | pllFreq ch => exact .inl ⟨_, legalResponse_ok (by simp), exec_pllFreq ch s⟩
  | pllParams ch =>
    cases parameters : pllParameters ch with
    | ok p => exact .inl ⟨_, legalResponse_ok (by simp), exec_pllParams_of_ok s parameters⟩
    | error e => exact .inr (.inl ⟨e, exec_pllParams_of_error s parameters⟩)
  | pllRegs ch =>
    cases parameters : pllParameters ch with
    | ok p => exact .inl ⟨_, legalResponse_ok (by simp), exec_pllRegs_of_ok s parameters⟩
    | error e => exact .inr (.inl ⟨e, exec_pllRegs_of_error s parameters⟩)
  | exec cmd args rlen => exact .inr (.inr ⟨cmd, args, rlen, rfl, rfl⟩)

/-- So does every request; the arguments of an `EXEC` fit their length byte (R62). -/
theorem acceptRequest_cases (f : Frame) (s : State) :
    (∃ r, legalResponse r ∧ acceptRequest f s = .next (respond r s)) ∨
    (∃ e, acceptRequest f s = .next (abort e s)) ∨
    ∃ cmd args rlen, args.length ≤ 255 ∧ acceptRequest f s = .next (execStarted cmd args rlen s) := by
  cases decoded : decode f with
  | error e =>
    exact .inl ⟨_, legalResponse_error .illegalRequest, acceptRequest_illFormed f e s decoded⟩
  | ok i =>
    rw [acceptRequest_ok f i s decoded]
    obtain answers | raises | ⟨cmd, args, rlen, rfl, starts⟩ := exec_cases i s
    · exact .inl answers
    · exact .inr (.inl raises)
    · exact .inr (.inr ⟨cmd, args, rlen, of_decide_eq_true (encodeOfDecode f _ decoded).2, starts⟩)

/-- Settles O36: an error raised in `IDLE` changes only the response too. -/
theorem oneStepOperations : Obligations.OneStepOperations := by
  intro s i idle shape other
  obtain ⟨f, legal, answers⟩ | ⟨e, raises⟩ | ⟨cmd, args, rlen, rfl, -⟩ := exec_cases i s
  · exact ⟨f, legal, answers⟩
  · exact ⟨errorFrame e, legalResponse_error e, raises.trans (congrArg _ (abort_idle e s idle shape))⟩
  · exact absurd rfl (other cmd args rlen)

/-! #### Outside `EXEC` the bus stands still (R140) -/

/-- Settles O16: of the ways an idle block can step, only reset and an abort touch the bus port, and both only
to release chip select. -/
theorem onlyExecUsesTheBus : Obligations.OnlyExecUsesTheBus := by
  intro s t idle deselected h
  obtain ⟨rest, -, rfl⟩ | ⟨-, -, f, -, rfl⟩ | ⟨-, -, -, -, rfl⟩ | ⟨-, -, -, f, rest, -, accepted⟩ |
    ⟨-, busy, -⟩ := step_cases h
  · simp [deselected]
  · exact ⟨rfl, rfl, deselected⟩
  · exact ⟨rfl, rfl, deselected⟩
  · obtain ⟨r, -, comes⟩ | ⟨e, comes⟩ | ⟨cmd, args, rlen, -, comes⟩ := acceptRequest_cases f _ <;>
      cases comes.symm.trans accepted
    · exact ⟨rfl, rfl, deselected⟩
    · simp [deselected]
    · exact ⟨rfl, rfl, deselected⟩
  · exact absurd idle busy

/-! #### One order of events (R48, R49) -/

/-- From `s` to `t` the trace grows by one event at most, or by a failed call and the `Desel` of its abort; and
a response comes only with the end of its request. -/
def OneOrder (s t : State) : Prop :=
  (∃ es, t.trace = s.trace ++ es ∧ (es.length ≤ 1 ∨ ∃ e, es = [e, .desel] ∧ t.out = some [0x04])) ∧
    (s.out = none → t.out ≠ none → t.phase = .idle)

theorem oneOrder_silent {s t : State} (trace : t.trace = s.trace) (out : t.out = s.out ∨ t.phase = .idle) :
    OneOrder s t :=
  ⟨⟨[], by rw [trace, List.append_nil], .inl (Nat.zero_le 1)⟩,
    fun empty answered => out.resolve_left fun same => answered (same.trans empty)⟩

theorem oneOrder_event {s t : State} {e : BusEvent} (trace : t.trace = s.trace ++ [e])
    (out : t.out = s.out ∨ t.phase = .idle) : OneOrder s t :=
  ⟨⟨[e], trace, .inl le_rfl⟩,
    fun empty answered => out.resolve_left fun same => answered (same.trans empty)⟩

/-- An abort with nothing before it but, at most, the release of chip select. -/
theorem oneOrder_abort (e : BlockError) {s u : State} (trace : u.trace = s.trace) :
    OneOrder s (abort e u) := by
  cases selected : u.cs with
  | true => exact oneOrder_event (e := .desel) (by simp [selected, trace]) (.inr (abort_phase e u))
  | false => exact oneOrder_silent (by simp [selected, trace]) (.inr (abort_phase e u))

/-- A bus call that can fail: the failed call's event and the abort's `Desel`, or what the call leads to. -/
theorem oneOrder_busCall (fails : Bool) {s u v : State} {e : BusEvent} (trace : u.trace = s.trace ++ [e])
    (done : OneOrder s v) : OneOrder s (if fails then abort .busError u else v) := by
  cases fails with
  | false => exact done
  | true =>
    cases selected : u.cs with
    | true =>
      exact ⟨⟨[e, .desel], by simp [selected, trace], .inr ⟨e, rfl, abort_out .busError u⟩⟩,
        fun _ _ => abort_phase .busError u⟩
    | false => exact oneOrder_event (e := e) (by simp [selected, trace]) (.inr (abort_phase .busError u))

theorem oneOrder_pollAsk (next : Point) (s : State) : OneOrder s (pollAsk next s) := by
  rw [pollAsk_eq]
  exact oneOrder_busCall _ rfl (oneOrder_event rfl (.inl rfl))

/-- After its `Desel` a poll that read not ready aborts with no event more. -/
theorem oneOrder_pollAgain (sleep : Point) (s : State) : OneOrder s (pollAgain sleep (busDeselect s)) := by
  unfold pollAgain
  split
  · exact oneOrder_event (e := .desel) (by simp) (.inr (abort_phase ..))
  · exact oneOrder_event rfl (.inl rfl)

theorem oneOrder_runPoint {p : Point} {s t : State} (h : runPoint p s = .next t) : OneOrder s t := by
  cases p with
  | a1 | a5 | b1 | c1 | c7 => cases h; exact oneOrder_event rfl (.inl rfl)
  | a2 | c2 => cases h; exact oneOrder_pollAsk _ s
  | a3 => cases (seqA3_eq s).symm.trans h; exact oneOrder_busCall _ rfl (oneOrder_event rfl (.inl rfl))
  | c3 => cases (seqC3_eq s).symm.trans h; exact oneOrder_busCall _ rfl (oneOrder_event rfl (.inl rfl))
  | c6 => cases h; exact oneOrder_pollAgain .c7 s
  | a4 =>
    cases hc : s.cts with
    | none => simp [runPoint, seqA4, hc] at h
    | some b =>
      cases (seqA4_eq s b hc).symm.trans h
      split
      · exact oneOrder_event rfl (.inl rfl)
      · exact oneOrder_pollAgain .a5 s
  | b2 =>
    cases hc : s.cmd with
    | none => simp [runPoint, seqB2, hc] at h
    | some cmd =>
      cases ha : s.args with
      | none => simp [runPoint, seqB2, hc, ha] at h
      | some args =>
        cases (seqB2_eq s cmd args hc ha).symm.trans h
        exact oneOrder_busCall _ rfl (oneOrder_event rfl (.inl rfl))
  | b3 =>
    cases hr : s.rlen with
    | none => simp [runPoint, seqB3, hr] at h
    | some rlen =>
      cases (seqB3_eq s rlen hr).symm.trans h
      split
      · exact oneOrder_event rfl (.inr rfl)
      · exact oneOrder_event rfl (.inl rfl)
  | c4 =>
    cases hr : s.rlen with
    | none => simp [runPoint, seqC4, hr] at h
    | some rlen =>
      cases (seqC4_eq s rlen hr).symm.trans h
      exact oneOrder_busCall _ rfl (oneOrder_event rfl (.inl rfl))
  | c5 =>
    cases hr : s.resp with
    | none => simp [runPoint, seqC5, hr] at h
    | some resp =>
      cases (seqC5_eq s resp hr).symm.trans h
      exact oneOrder_event rfl (.inr rfl)

/-- Settles O15, by the ways a step can go. -/
theorem traceIsOneOrder : Obligations.TraceIsOneOrder := by
  intro s t h
  obtain ⟨rest, -, rfl⟩ | ⟨-, idle, f, -, rfl⟩ | ⟨-, -, -, -, rfl⟩ |
    ⟨-, idle, -, f, rest, -, accepted⟩ | ⟨-, -, p, -, runs⟩ := step_cases h
  · cases selected : s.cs with
    | true => exact oneOrder_event (e := .desel) (by simp) (.inr (resetBlock_phase _))
    | false => exact oneOrder_silent (by simp) (.inr (resetBlock_phase _))
  · exact oneOrder_silent rfl (.inr idle)
  · exact oneOrder_silent rfl (.inl rfl)
  · obtain ⟨r, -, comes⟩ | ⟨e, comes⟩ | ⟨cmd, args, rlen, -, comes⟩ := acceptRequest_cases f _ <;>
      cases comes.symm.trans accepted
    · exact oneOrder_silent rfl (.inr idle)
    · exact oneOrder_abort e rfl
    · exact oneOrder_silent rfl (.inl rfl)
  · exact oneOrder_runPoint (s := tick s) runs

end Sys2Proof.Machine
end

section
/-! ### What each label comes to (42_handshake.md R145, 10_state.md R27, R30)

From a state in the shape of its label every label answers: the request goes on at another label whose shape
holds, or it ends with a legal response. Either way the label's events keep the chip-select spans, and
`eventsLeft` says how many events the request can still make. -/

namespace Sys2Proof.Machine

/-- The most bus events after a wait with `most` polls allowed in each: the command and the second wait, or
nothing beyond the response that the wait's last poll reads in its own span. -/
def Wait.eventsAfter (most : Nat) : Wait → Nat
  | command => 5 * most + 2
  | response => 0

/-- The most bus events an `EXEC` can still make from a label, with `most` polls allowed in a wait and `n` of
them started (R212): five for each poll to come, what is left of the poll in progress, and the labels after the
wait. -/
def eventsLeft (most : Nat) (p : Point) (n : Nat) : Nat :=
  match p with
  | .a1 => 5 * (most - n) + Wait.command.eventsAfter most
  | .a2 => 5 * (most - n) + Wait.command.eventsAfter most + 4
  | .a3 => 5 * (most - n) + Wait.command.eventsAfter most + 3
  | .a4 => 5 * (most - n) + Wait.command.eventsAfter most + 2
  | .a5 => 5 * (most - n) + Wait.command.eventsAfter most + 1
  | .b1 => 5 * most + 3
  | .b2 => 5 * most + 2
  | .b3 => 5 * most + 1
  | .c1 => 5 * (most - n) + Wait.response.eventsAfter most
  | .c2 => 5 * (most - n) + Wait.response.eventsAfter most + 4
  | .c3 => 5 * (most - n) + Wait.response.eventsAfter most + 3
  | .c4 => 2
  | .c5 => 1
  | .c6 => 5 * (most - n) + Wait.response.eventsAfter most + 2
  | .c7 => 5 * (most - n) + Wait.response.eventsAfter most + 1

namespace Wait

/-- The label at which a poll that read not ready deselects. -/
def notReady : Wait → Point
  | command => .a4
  | response => .c6

section
variable (w : Wait) (most n : Nat)

@[simp] theorem eventsLeft_select : eventsLeft most w.select n = 5 * (most - n) + w.eventsAfter most := by
  cases w <;> rfl
@[simp] theorem eventsLeft_ask : eventsLeft most w.ask n = 5 * (most - n) + w.eventsAfter most + 4 := by
  cases w <;> rfl
@[simp] theorem eventsLeft_read : eventsLeft most w.read n = 5 * (most - n) + w.eventsAfter most + 3 := by
  cases w <;> rfl
@[simp] theorem eventsLeft_notReady :
    eventsLeft most w.notReady n = 5 * (most - n) + w.eventsAfter most + 2 := by
  cases w <;> rfl
@[simp] theorem eventsLeft_sleep : eventsLeft most w.sleep n = 5 * (most - n) + w.eventsAfter most + 1 := by
  cases w <;> rfl

theorem eventsLeft_afterRead_le (b : Byte) :
    eventsLeft most (w.afterRead b) n ≤ 5 * (most - n) + w.eventsAfter most + 2 := by
  cases w with
  | command => exact le_rfl
  | response =>
    rw [afterRead]
    split
    next ready => exact Nat.le_add_left 2 _
    next notReady => exact le_rfl

end

end Wait

/-- What the events `es` of a label do: the trace grows by them, they keep the spans, and the host port and the
reset signal stand still. -/
structure MovesBy (es : List BusEvent) (s t : State) : Prop where
  trace : t.trace = s.trace ++ es
  span : es.foldl spanStep (some s.cs) = some t.cs
  delivered : t.delivered = s.delivered
  resetLine : t.resetLine = s.resetLine

/-- With a bounded number of polls, `n` more events fit into what is left at `p`. -/
def FitsAt (p : Point) (s : State) (n : Nat → Nat) : Prop :=
  ∀ most : PNat, s.params.ctsMaxPolls = .bounded most → n most ≤ eventsLeft most p s.polls

/-- What the step from label `p` of `s` comes to. -/
inductive ComesTo (p : Point) (s : State) : State → Prop
  /-- The request goes on at the label `q`. -/
  | goesOn {t : State} (q : Point) (e : BusEvent) (shape : BusyShape t q) (moves : MovesBy [e] s t)
      (fits : FitsAt p s fun most => 1 + eventsLeft most q t.polls) : ComesTo p s t
  /-- The request ends with the response `f`. -/
  | ends {t : State} (f : Frame) (e : BusEvent) (es : List BusEvent) (phase : t.phase = .idle)
      (shape : IdleShape t) (out : t.out = some f) (legal : legalResponse f) (moves : MovesBy (e :: es) s t)
      (fits : FitsAt p s fun _ => es.length + 1) : ComesTo p s t

/-! #### The ends of a request -/

section
variable {s : State} {p : Point} (h : BusyShape s p)
include h

/-- A failed call inside a span: its event and the `Desel` of the abort (R147). -/
theorem comesTo_busError (o : Oracle) {e : BusEvent} (selected : pointSelected p = true)
    (inside : spanStep (some true) e = some true) (fits : FitsAt p s fun _ => 2) :
    ComesTo p s (abort .busError (record e { s with oracle := o })) := by
  have cs : s.cs = true := h.cs.trans selected
  refine .ends _ e [.desel] (abort_phase ..) (abort_idleShape ..) (abort_out ..) (legalResponse_error _)
    ⟨by simp [cs], ?_, abort_delivered .., abort_resetLine ..⟩ fits
  rw [cs, List.foldl_cons, inside, abort_cs]
  rfl

/-- A bus call that can fail. -/
theorem comesTo_busCall (fails : Bool) (o : Oracle) {v : State} {e : BusEvent}
    (selected : pointSelected p = true) (inside : spanStep (some true) e = some true)
    (fits : FitsAt p s fun _ => 2) (done : ComesTo p s v) :
    ComesTo p s (if fails then abort .busError (record e { s with oracle := o }) else v) := by
  cases fails with
  | true => exact comesTo_busError h o selected inside fits
  | false => exact done

/-- The last poll allowed read not ready (R143). -/
theorem comesTo_notResponding (selected : pointSelected p = true) (fits : FitsAt p s fun _ => 1) :
    ComesTo p s (abort .deviceNotResponding (busDeselect s)) := by
  have cs : s.cs = true := h.cs.trans selected
  refine .ends _ .desel [] (abort_phase ..) (abort_idleShape ..) (abort_out ..) (legalResponse_error _)
    ⟨by simp, ?_, abort_delivered .., abort_resetLine ..⟩ fits
  rw [cs, abort_cs]
  rfl

/-- The request is answered `OK` (R145, `finish`). -/
theorem comesTo_finish {result : List Byte} (short : result.length ≤ 255) (selected : pointSelected p = true)
    (fits : FitsAt p s fun _ => 1) : ComesTo p s (finish (okFrame result) (busDeselect s)) := by
  have cs : s.cs = true := h.cs.trans selected
  refine .ends _ .desel [] rfl ⟨rfl, rfl, rfl, rfl, rfl, rfl, rfl, rfl⟩ rfl (legalResponse_ok short)
    ⟨rfl, ?_, rfl, rfl⟩ fits
  rw [cs]
  rfl

end

/-! #### The labels of the two waits -/

theorem pollsAllowed_bounded {p : Params} {most : PNat} {n : Nat} (bounded : p.ctsMaxPolls = .bounded most) :
    pollsAllowed p n ↔ n ≤ most := by
  simp [pollsAllowed, bounded]

section
variable {w : Wait} {s : State}

theorem comesTo_select (h : BusyShape s w.select) : ComesTo w.select s (pollSelect w.ask s) := by
  have deselected : s.cs = false := h.cs.trans (by cases w <;> rfl)
  have polls : pollsAllowed s.params (s.polls + 1) := by cases w <;> exact h.polls
  refine .goesOn w.ask .sel ?shape ⟨rfl, by rw [deselected]; rfl, rfl, rfl⟩ fun most bounded => ?fits
  case shape =>
    cases w <;> exact
      { h with point := rfl, cs := rfl, cts := nofun, ready := by simp [Wait.ask], notReady := nofun }
  case fits =>
    have room := (pollsAllowed_bounded bounded).mp polls
    simp only [Wait.eventsLeft_ask, Wait.eventsLeft_select, pollSelect, goTo_polls, busSelect_polls]
    omega

theorem comesTo_ask (h : BusyShape s w.ask) : ComesTo w.ask s (pollAsk w.read s) := by
  have selected : pointSelected w.ask = true := by cases w <;> rfl
  have cs : s.cs = true := h.cs.trans selected
  rw [pollAsk_eq]
  refine comesTo_busCall h _ _ selected rfl (fun most _ => ?failFits)
    (.goesOn w.read (.wr [s.params.opReadCmdBuff]) ?shape ⟨rfl, by rw [cs]; rfl, rfl, rfl⟩
      fun most _ => ?fits)
  case failFits => simp
  case shape =>
    cases w <;> exact
      { h with point := rfl, cts := nofun, ready := by simp [Wait.read], notReady := nofun }
  case fits =>
    simp only [Wait.eventsLeft_ask, Wait.eventsLeft_read, goTo_polls, record_polls]
    omega

/-- After a poll that read not ready the wait ends at its bound, or goes on to the sleep. -/
theorem comesTo_notReady (h : BusyShape s w.notReady) :
    ComesTo w.notReady s (pollAgain w.sleep (busDeselect s)) := by
  have selected : pointSelected w.notReady = true := by cases w <;> rfl
  have cs : s.cs = true := h.cs.trans selected
  unfold pollAgain
  split
  next => exact comesTo_notResponding h selected fun most _ => by simp
  next more =>
    have allowed := (boundReached_eq_false_iff _).mp (Bool.eq_false_of_not_eq_true more)
    refine .goesOn w.sleep .desel ?shape ⟨rfl, by rw [cs]; rfl, rfl, rfl⟩ fun most _ => ?fits
    case shape =>
      cases w <;> exact
        { h with
          point := rfl, cs := rfl, polls := allowed, cts := nofun, ready := by simp [Wait.sleep]
          notReady := nofun }
    case fits =>
      simp only [Wait.eventsLeft_notReady, Wait.eventsLeft_sleep, goTo_polls, busDeselect_polls]
      omega

theorem comesTo_sleep (h : BusyShape s w.sleep) : ComesTo w.sleep s (pollSleep w.select s) := by
  have deselected : s.cs = false := h.cs.trans (by cases w <;> rfl)
  refine .goesOn w.select (.slp Config.pollInterval) ?shape
    ⟨rfl, by rw [deselected]; exact congrArg _ deselected.symm, rfl, rfl⟩ fun most _ => ?fits
  case shape =>
    cases w <;> exact
      { h with point := rfl, cts := nofun, ready := by simp [Wait.select], notReady := nofun }
  case fits =>
    simp only [Wait.eventsLeft_sleep, Wait.eventsLeft_select, pollSleep, goTo_polls, busSleep, record_polls]
    omega

/-- The CTS byte is read, and with it the next label's latches are as it needs them. -/
theorem comesTo_read (h : BusyShape s w.read) :
    ∃ t, runPoint w.read s = .next t ∧ ComesTo w.read s t := by
  have selected : pointSelected w.read = true := by cases w <;> rfl
  have cs : s.cs = true := h.cs.trans selected
  rcases draw : drawFault s.oracle with ⟨_ | _, o⟩
  case true =>
    exact ⟨_, w.runPoint_read_failed draw, comesTo_busError h o selected rfl fun most _ => by simp⟩
  case false =>
    rcases byte : drawByte o with ⟨b, o'⟩
    refine ⟨_, w.runPoint_read_done draw byte, .goesOn (w.afterRead b) (.rd 1 [b]) ?shape
      ⟨rfl, by rw [cs]; rfl, rfl, rfl⟩ fun most _ => ?fits⟩
    case shape =>
      cases w with
      | command =>
        exact
          { h with point := rfl, cts := fun _ => nofun, ready := by simp [Wait.afterRead], notReady := nofun }
      | response =>
        by_cases ready : b = 0xFF
        · subst ready
          exact { h with point := rfl, cts := nofun, ready := fun _ => rfl, notReady := nofun }
        · have next : Wait.response.afterRead b = .c6 := if_neg ready
          rw [next]
          exact { h with point := rfl, cts := nofun, ready := by simp, notReady := fun _ => ⟨b, rfl, ready⟩ }
    case fits =>
      have left := w.eventsLeft_afterRead_le most s.polls b
      simp only [Wait.eventsLeft_read, goTo_polls, record_polls]
      omega

end

/-! #### The other labels -/

section
variable {s : State}

/-- A4: the wait before the command ends, or another poll is due. -/
theorem comesTo_a4 (h : BusyShape s .a4) : ∃ t, runPoint .a4 s = .next t ∧ ComesTo .a4 s t := by
  have cs : s.cs = true := h.cs
  obtain ⟨b, cts⟩ := Option.ne_none_iff_exists'.mp (h.cts rfl)
  refine ⟨_, seqA4_eq s b cts, ?_⟩
  split
  · refine .goesOn .b1 .desel
      { h with
        point := rfl, phase := rfl, cs := rfl, respond := nofun, cts := nofun, ready := by simp
        notReady := nofun }
      ⟨rfl, by rw [cs]; rfl, rfl, rfl⟩ fun most _ => ?_
    simp only [eventsLeft, Wait.eventsAfter]
    omega
  · exact comesTo_notReady (w := .command) h

theorem comesTo_b1 (h : BusyShape s .b1) : ComesTo .b1 s (goTo .b2 (busSelect s)) := by
  have deselected : s.cs = false := h.cs
  refine .goesOn .b2 .sel
    { h with point := rfl, cs := rfl, cts := nofun, ready := by simp, notReady := nofun }
    ⟨rfl, by rw [deselected]; rfl, rfl, rfl⟩ fun most _ => ?_
  simp only [eventsLeft]
  omega

theorem comesTo_b2 (h : BusyShape s .b2) : ∃ t, runPoint .b2 s = .next t ∧ ComesTo .b2 s t := by
  have cs : s.cs = true := h.cs
  obtain ⟨cmd, hcmd⟩ := Option.ne_none_iff_exists'.mp h.cmd
  obtain ⟨args, hargs, -⟩ := h.args
  refine ⟨_, seqB2_eq s cmd args hcmd hargs, comesTo_busCall h _ _ rfl rfl (fun most _ => by simp [eventsLeft])
    (.goesOn .b3 (.wr (cmd :: args))
      { h with point := rfl, cts := nofun, ready := by simp, notReady := nofun }
      ⟨rfl, by rw [cs]; rfl, rfl, rfl⟩ fun most _ => ?_)⟩
  simp only [eventsLeft]
  omega

/-- B3: with no response due the request is answered; otherwise the second wait begins, its count at 0. -/
theorem comesTo_b3 (h : BusyShape s .b3) : ∃ t, runPoint .b3 s = .next t ∧ ComesTo .b3 s t := by
  have cs : s.cs = true := h.cs
  obtain ⟨rlen, hrlen⟩ := Option.ne_none_iff_exists'.mp h.rlen
  refine ⟨_, seqB3_eq s rlen hrlen, ?_⟩
  split
  next noResponse => exact comesTo_finish h (Nat.zero_le 255) rfl fun most _ => by simp [eventsLeft]
  next responds =>
    refine .goesOn .c1 .desel
      { h with
        point := rfl, phase := rfl, cs := rfl, polls := pollsAllowed_one s.params
        respond := fun _ none_due => responds (Option.some.inj (hrlen.symm.trans none_due))
        cts := nofun, ready := by simp, notReady := nofun }
      ⟨rfl, by rw [cs]; rfl, rfl, rfl⟩ fun most _ => ?_
    simp only [eventsLeft, Wait.eventsAfter, goTo_polls]
    omega

theorem comesTo_c4 (h : BusyShape s .c4) : ∃ t, runPoint .c4 s = .next t ∧ ComesTo .c4 s t := by
  have cs : s.cs = true := h.cs
  obtain ⟨rlen, hrlen⟩ := Option.ne_none_iff_exists'.mp h.rlen
  refine ⟨_, seqC4_eq s rlen hrlen, comesTo_busCall h _ _ rfl rfl (fun most _ => le_rfl)
    (.goesOn .c5 (.rd rlen.toNat _)
      { h with
        point := rfl, cts := nofun, ready := fun _ => h.ready (.inl rfl), notReady := nofun
        resp := ⟨rlen, _, hrlen, rfl, drawBytes_length ..⟩ }
      ⟨rfl, by rw [cs]; rfl, rfl, rfl⟩ fun most _ => le_rfl)⟩

/-- C5: a response is as long as `RLEN` says, and so legal. -/
theorem comesTo_c5 (h : BusyShape s .c5) : ∃ t, runPoint .c5 s = .next t ∧ ComesTo .c5 s t := by
  obtain ⟨rlen, resp, -, hresp, length⟩ := h.resp
  have short : resp.length ≤ 255 := by
    have := rlen.isLt
    omega
  exact ⟨_, seqC5_eq s resp hresp, comesTo_finish h short rfl fun most _ => le_rfl⟩

/-- No label stops, and what it comes to is `ComesTo`. -/
theorem runPoint_comesTo {p : Point} (h : BusyShape s p) : ∃ t, runPoint p s = .next t ∧ ComesTo p s t := by
  cases p with
  | a1 => exact ⟨_, rfl, comesTo_select (w := .command) h⟩
  | a2 => exact ⟨_, rfl, comesTo_ask (w := .command) h⟩
  | a3 => exact comesTo_read (w := .command) h
  | a4 => exact comesTo_a4 h
  | a5 => exact ⟨_, rfl, comesTo_sleep (w := .command) h⟩
  | b1 => exact ⟨_, rfl, comesTo_b1 h⟩
  | b2 => exact comesTo_b2 h
  | b3 => exact comesTo_b3 h
  | c1 => exact ⟨_, rfl, comesTo_select (w := .response) h⟩
  | c2 => exact ⟨_, rfl, comesTo_ask (w := .response) h⟩
  | c3 => exact comesTo_read (w := .response) h
  | c4 => exact comesTo_c4 h
  | c5 => exact comesTo_c5 h
  | c6 => exact ⟨_, rfl, comesTo_notReady (w := .response) h⟩
  | c7 => exact ⟨_, rfl, comesTo_sleep (w := .response) h⟩

end

end Sys2Proof.Machine
end

section
/-! ### The invariants (10_state.md R27, R30, R32, 60_exceptions.md R171)

They hold at reset, every step from a state that meets them answers, and it keeps them. `{ shape with }` is a
shape that is known of one state, given for another with the same record. -/

namespace Sys2Proof.Machine

theorem spanAfter_append (trace es : List BusEvent) :
    spanAfter (trace ++ es) = es.foldl spanStep (spanAfter trace) := List.foldl_append

/-- Settles O54: nothing is in progress and nothing has been observed. -/
theorem resetMeetsInvariants : Obligations.ResetMeetsInvariants where
  shape := .inl ⟨rfl, rfl, rfl, rfl, rfl, rfl, rfl, rfl, rfl⟩
  spans := rfl
  out := nofun
  delivered := nofun

theorem BusyShape.phase_ne_idle {s : State} {p : Point} (h : BusyShape s p) : s.phase ≠ .idle := by
  rw [h.phase]
  cases p <;> exact Phase.noConfusion

theorem State.Inv.idleShape {s : State} (h : s.Inv) (idle : s.phase = .idle) : IdleShape s := by
  obtain ⟨-, shape⟩ | ⟨p, shape⟩ := h.shape
  · exact shape
  · exact absurd idle shape.phase_ne_idle

theorem State.Inv.busyShape {s : State} (h : s.Inv) (busy : s.phase ≠ .idle) : ∃ p, BusyShape s p :=
  h.shape.resolve_left fun idle => busy idle.1

/-- Settles O50: `IdleShape` is the record's part of R31's table. -/
theorem idleIsAsAfterReset : Obligations.IdleIsAsAfterReset := by
  intro s inv idle out
  obtain ⟨point, polls, cs, cts, cmd, args, rlen, resp⟩ := inv.idleShape idle
  exact ⟨idle, point, polls, cs, cts, cmd, args, rlen, resp, out⟩

/-! #### Reset -/

theorem resetBlock_idleShape (s : State) : IdleShape (resetBlock s) :=
  ⟨resetBlock_point s, resetBlock_polls s, resetBlock_cs s, resetBlock_cts s, resetBlock_cmd s,
    resetBlock_args s, resetBlock_rlen s, resetBlock_resp s⟩

/-- Settles O52: one rule of `resetBlock` for each field. -/
theorem resetAbandonsRequest : Obligations.ResetAbandonsRequest := by
  intro s rest asserted
  obtain ⟨point, polls, cs, cts, cmd, args, rlen, resp⟩ := resetBlock_idleShape { s with resetLine := rest }
  refine ⟨_, step_reset s rest asserted,
    ⟨resetBlock_phase _, point, polls, cs, cts, cmd, args, rlen, resp, resetBlock_out _⟩,
    resetBlock_params _, ?trace, resetBlock_delivered _, resetBlock_requests _⟩
  case trace =>
    rw [resetBlock_trace]
    exact List.prefix_append ..

/-- Reset inside a span records the `Desel` that closes it (log entry 5). -/
theorem resetBlock_inv {s : State} (spans : spanAfter s.trace = some s.cs)
    (delivered : ∀ f ∈ s.delivered, legalResponse f) : (resetBlock s).Inv where
  shape := .inl ⟨resetBlock_phase s, resetBlock_idleShape s⟩
  spans := by
    rw [resetBlock_trace, resetBlock_cs, spanAfter_append, spans]
    cases s.cs <;> rfl
  out := by simp
  delivered := by simpa using delivered

/-! #### A step that answers -/

/-- A request ends with a legal response, or goes on in the next label's shape. -/
theorem ComesTo.inv {p : Point} {s t : State} (h : ComesTo p s t) (inv : s.Inv) : t.Inv := by
  have spans {es : List BusEvent} (moves : MovesBy es s t) : spanAfter t.trace = some t.cs := by
    rw [moves.trace, spanAfter_append, inv.spans, moves.span]
  have delivered {es : List BusEvent} (moves : MovesBy es s t) : ∀ f ∈ t.delivered, legalResponse f :=
    moves.delivered.symm ▸ inv.delivered
  cases h with
  | goesOn q e shape moves =>
    exact ⟨.inr ⟨q, shape⟩, spans moves, by simp [shape.out], delivered moves⟩
  | ends f e es phase shape out legal moves =>
    refine ⟨.inl ⟨phase, shape⟩, spans moves, fun g hg => ?_, delivered moves⟩
    rwa [← Option.some.inj (out.symm.trans hg)]

/-- An idle block that meets the invariants meets them with another legal response in the port. -/
theorem respond_inv {s : State} {f : Frame} (inv : s.Inv) (idle : s.phase = .idle) (legal : legalResponse f) :
    (respond f s).Inv where
  shape := .inl ⟨idle, { inv.idleShape idle with }⟩
  spans := inv.spans
  out := by simpa using legal
  delivered := inv.delivered

/-- An `EXEC` begins at A1 with its first poll allowed. -/
theorem execStarted_shape {s : State} (shape : IdleShape s) (out : s.out = none) (cmd rlen : Byte)
    {args : List Byte} (short : args.length ≤ 255) : BusyShape (execStarted cmd args rlen s) .a1 where
  point := rfl
  phase := rfl
  out := out
  cs := shape.cs
  polls := pollsAllowed_one s.params
  cmd := nofun
  args := ⟨args, rfl, short⟩
  rlen := nofun
  respond := nofun
  cts := nofun
  ready := by simp
  notReady := nofun
  resp := shape.resp

theorem acceptRequest_inv (f : Frame) {s : State} (inv : s.Inv) (idle : s.phase = .idle) (out : s.out = none) :
    ∃ t, acceptRequest f s = .next t ∧ t.Inv := by
  obtain ⟨r, legal, comes⟩ | ⟨e, comes⟩ | ⟨cmd, args, rlen, short, comes⟩ := acceptRequest_cases f s
  · exact ⟨_, comes, respond_inv inv idle legal⟩
  · rw [abort_idle e s idle (inv.idleShape idle)] at comes
    exact ⟨_, comes, respond_inv inv idle (legalResponse_error e)⟩
  · exact ⟨_, comes, .inr ⟨.a1, execStarted_shape (inv.idleShape idle) out cmd rlen short⟩, inv.spans,
      by simp [out], inv.delivered⟩

/-- What waits outside the block and the reset signal have no part in the invariants. -/
theorem State.Inv.outside {s : State} (inv : s.Inv) (requests : List Frame) (line : List Bool) :
    State.Inv { s with requests := requests, resetLine := line } where
  shape := inv.shape.imp (fun ⟨idle, shape⟩ => ⟨idle, { shape with }⟩) fun ⟨p, shape⟩ => ⟨p, { shape with }⟩
  spans := inv.spans
  out := inv.out
  delivered := inv.delivered

theorem tick_inv {s : State} (inv : s.Inv) : (tick s).Inv := inv.outside s.requests s.resetLine.tail

/-- Every step from a state that meets the invariants answers, and keeps them. -/
theorem step_inv {s : State} (inv : s.Inv) : ∃ t, step s = .next t ∧ t.Inv := by
  by_cases released : resetReleased s
  case neg =>
    obtain ⟨rest, line⟩ : ∃ rest, s.resetLine = true :: rest :=
      List.head?_eq_some_iff.mp (not_not.mp released)
    exact ⟨_, step_reset s rest line, resetBlock_inv inv.spans inv.delivered⟩
  by_cases idle : s.phase = .idle
  · cases out : s.out with
    | some f =>
      refine ⟨_, step_take s f released idle out, .inl ⟨idle, { inv.idleShape idle with }⟩, inv.spans, nofun,
        fun g hg => ?_⟩
      obtain old | new := List.mem_append.mp hg
      · exact inv.delivered g old
      · exact List.mem_singleton.mp new ▸ inv.out f out
    | none =>
      cases requests : s.requests with
      | nil => exact ⟨_, step_wait s released idle out requests, tick_inv inv⟩
      | cons f rest =>
        rw [step_accept s f rest released idle out requests]
        exact acceptRequest_inv f (inv.outside rest s.resetLine.tail) idle out
  · obtain ⟨p, shape⟩ := inv.busyShape idle
    obtain ⟨t, runs, comes⟩ := runPoint_comesTo (s := tick s) { shape with }
    exact ⟨t, (step_busy s p released idle shape.point).trans runs, comes.inv (tick_inv inv)⟩

/-- Settles O55: `step_inv`, for the step that is given. -/
theorem stepKeepsInvariants : Obligations.StepKeepsInvariants := by
  intro s t inv h
  obtain ⟨u, answers, kept⟩ := step_inv inv
  cases answers.symm.trans h
  exact kept

/-- Settles O56, by induction on the number of steps. -/
theorem noRunStops : Obligations.NoRunStops := by
  intro s inv k
  induction k generalizing s with
  | zero => exact ⟨s, rfl⟩
  | succ k ih =>
    obtain ⟨u, answers, kept⟩ := step_inv inv
    rw [run_succ answers]
    exact ih u kept

end Sys2Proof.Machine
end

section
/-! ### A failed bus call, and the end of every `EXEC` (42_handshake.md R147, 70_reset_and_hazards.md R212) -/

namespace Sys2Proof.Machine

/-- The event of the call that fails at a label (R140). -/
def errorEvent (p : Point) (s : State) (e : BusEvent) : Prop :=
  (p = .a2 ∨ p = .c2 → e = .wrErr [s.params.opReadCmdBuff]) ∧
  (p = .a3 ∨ p = .c3 → e = .rdErr 1) ∧
  (p = .b2 → ∃ cmd args, s.cmd = some cmd ∧ s.args = some args ∧ e = .wrErr (cmd :: args)) ∧
  (p = .c4 → ∃ rlen, s.rlen = some rlen ∧ e = .rdErr rlen.toNat)

/-- Each of the six labels aborts when its call fails. -/
theorem runPoint_failed {s : State} {p : Point} {o : Oracle} (shape : BusyShape s p)
    (calls : p ∈ [.a2, .a3, .b2, .c2, .c3, .c4]) (draw : drawFault s.oracle = (true, o)) :
    ∃ e, errorEvent p s e ∧ runPoint p s = .next (abort .busError (record e { s with oracle := o })) := by
  simp only [List.mem_cons, List.not_mem_nil, or_false] at calls
  obtain rfl | rfl | rfl | rfl | rfl | rfl := calls
  · exact ⟨_, by simp [errorEvent], Wait.command.runPoint_ask_failed draw⟩
  · exact ⟨_, by simp [errorEvent], Wait.command.runPoint_read_failed draw⟩
  · obtain ⟨cmd, hcmd⟩ := Option.ne_none_iff_exists'.mp shape.cmd
    obtain ⟨args, hargs, -⟩ := shape.args
    exact ⟨_, by simp [errorEvent, hcmd, hargs], runPoint_b2_failed hcmd hargs draw⟩
  · exact ⟨_, by simp [errorEvent], Wait.response.runPoint_ask_failed draw⟩
  · exact ⟨_, by simp [errorEvent], Wait.response.runPoint_read_failed draw⟩
  · obtain ⟨rlen, hrlen⟩ := Option.ne_none_iff_exists'.mp shape.rlen
    exact ⟨_, by simp [errorEvent, hrlen], runPoint_c4_failed hrlen draw⟩

/-- Settles O45: inside its span, the abort of the failed call (`runPoint_failed`) records a `Desel`. -/
theorem busErrorEndsExec : Obligations.BusErrorEndsExec := by
  intro s p _ released shape calls fails
  have selected : s.cs = true := by
    rw [shape.cs]
    simp only [List.mem_cons, List.not_mem_nil, or_false] at calls
    obtain rfl | rfl | rfl | rfl | rfl | rfl := calls <;> rfl
  obtain ⟨e, event, runs⟩ := runPoint_failed (s := tick s) { shape with } calls (Prod.ext fails rfl)
  obtain ⟨ask, read, command, response⟩ := event
  exact ⟨_, e, (step_busy s p released shape.phase_ne_idle shape.point).trans runs, by simp [selected], ask,
    read, command, response, abort_out .., abort_phase .., abort_idleShape .., by simp, by simp⟩

/-- Whatever a label comes to, it makes an event. -/
theorem eventsLeft_pos {most : PNat} {s : State} {p : Point} (shape : BusyShape s p)
    (bounded : s.params.ctsMaxPolls = .bounded most) : 0 < eventsLeft most p s.polls := by
  obtain ⟨t, -, comes⟩ := runPoint_comesTo shape
  cases comes with
  | ends f e es _ _ _ _ _ fits => exact (Nat.succ_pos _).trans_le (fits most bounded)
  | goesOn q e _ _ fits => exact (Nat.add_pos_left Nat.one_pos _).trans_le (fits most bounded)

/-- From a label of a request in progress the response stands within `eventsLeft` steps and as many events,
however the oracle answers. -/
theorem busy_terminates {most : PNat} {n : Nat} {s : State} {p : Point} (shape : BusyShape s p)
    (released : s.resetLine = []) (bounded : s.params.ctsMaxPolls = .bounded most)
    (left : eventsLeft most p s.polls ≤ n) :
    ∃ k t, k ≤ n ∧ Host.Core.run Sys2Proof.core k s = .next t ∧ t.phase = .idle ∧ t.out ≠ none ∧
      t.delivered = s.delivered ∧ t.trace.length ≤ s.trace.length + n := by
  induction n generalizing s p with
  | zero => exact absurd left (Nat.not_le.mpr (eventsLeft_pos shape bounded))
  | succ n ih =>
    obtain ⟨t, runs, comes⟩ := runPoint_comesTo shape
    have first := SequencerRun.one released shape.phase_ne_idle shape.point runs
    have same : t.params = s.params := runPoint_params runs
    cases comes with
    | ends f e es phase _ out _ moves fits =>
      have few : es.length + 1 ≤ eventsLeft most p s.polls := fits most bounded
      refine ⟨1, t, by omega, first.run, phase, by simp [out], moves.delivered, ?_⟩
      rw [moves.trace, List.length_append, List.length_cons]
      omega
    | goesOn q e shape' moves fits =>
      have fewer : 1 + eventsLeft most q t.polls ≤ eventsLeft most p s.polls := fits most bounded
      obtain ⟨k, u, within, rest, phase, out, delivered, length⟩ :=
        ih shape' (moves.resetLine.trans released) (same ▸ bounded) (by omega)
      refine ⟨1 + k, u, by omega, (first.run_add k).trans rest, phase, out, delivered.trans moves.delivered, ?_⟩
      rw [moves.trace, List.length_append, List.length_singleton] at length
      omega

/-- Settles O57: at A1, with no poll started, `eventsLeft` is `10M + 2`. -/
theorem execTerminates : Obligations.ExecTerminates := by
  intro s s1 cmd rlen args most inv idle out released short bounded accepted
  cases accepted
  exact busy_terminates (execStarted_shape (inv.idleShape idle) out cmd rlen short) released bounded
    (by simp [eventsLeft, Wait.eventsAfter]; omega)

end Sys2Proof.Machine
end

section
/-! ### An `EXEC` whose answers are known (42_handshake.md R145) -/

namespace Sys2Proof.Machine

/-- Three bus calls that succeed after `n` others: a poll's two, and the write or the read that follows it. -/
theorem replicate_add_three (n : Nat) (faults : List Bool) : List.replicate (n + 3) false ++ faults =
    List.replicate n false ++ false :: false :: false :: faults := by
  rw [List.replicate_add, List.append_assoc]
  rfl

/-- The response wait whose bytes are known, from its start to the end of the request. -/
theorem wait_response {s : State} {rlen : Byte} {reads resp bytes : List Byte} {faults : List Bool} {draws : Nat}
    (start : StartsPoll .response s) (latched : s.rlen = some rlen) (notReady : allNotReady reads)
    (length : resp.length = rlen.toNat)
    (oracle : s.oracle = ⟨List.replicate (2 * reads.length) false ++ false :: false :: false :: faults,
      reads ++ 0xFF :: (resp ++ bytes), draws⟩)
    (allowed : pollsAllowed s.params (s.polls + reads.length + 1)) :
    SequencerRun (5 * reads.length + 5) s (finish (okFrame resp)
      { s with
        cs := false, oracle := ⟨faults, bytes, draws⟩
        trace := s.trace ++ (pollsThatSleep s.params.opReadCmdBuff reads ++
          responseEvents s.params.opReadCmdBuff resp) }) := by
  obtain ⟨cs, cts, polls⟩ := wait_polls start notReady oracle allowed
  have read := response_read (start.waited reads cs cts _) (pollReads_listed ..) latched
    (drawFault_listed false faults (resp ++ bytes) draws)
  rw [← length, drawBytes_listed] at read
  refine polls.trans ?_
  simpa [finish, clearLatches, respond] using read

/-- Settles O42: the first wait and the command write (`wait_command`), then the end of the request or the second
wait and the response (`wait_response`). -/
theorem execCompletes : Obligations.ExecCompletes := by
  intro s cmd rlen args pre post resp moreBytes moreFaults released hpre hpost length allowedPre allowedPost
  have start : StartsPoll .command (execStarted cmd args rlen s) := ⟨released, rfl, rfl⟩
  constructor
  · intro responds bytes faults
    rw [show 2 * pre.length + 2 * post.length + 6 = 2 * pre.length + 3 + (2 * post.length + 3) by omega,
      List.replicate_add, List.append_assoc, replicate_add_three, replicate_add_three] at faults
    simp only [List.append_assoc, List.cons_append] at bytes
    have first := wait_command start ⟨rfl, rfl, rfl⟩ hpre (oracle_eq faults bytes) (by simpa using allowedPre)
    have next := afterCommand_starts cmd args pre
      ⟨List.replicate (2 * post.length) false ++ false :: false :: false :: moreFaults,
        post ++ 0xFF :: (resp ++ moreBytes), s.oracle.draws⟩ start.released responds
    have second := wait_response next (afterCommand_rlen _ _ _ _ responds) hpost length (afterCommand_oracle ..)
      (by simpa using allowedPost)
    have labels := first.trans second
    rw [show 5 * pre.length + 7 + (5 * post.length + 5) =
      5 * (pre.length + 1) + 5 * (post.length + 1) + 2 by omega] at labels
    refine ⟨_, _, rfl, labels.run, ?_⟩
    rw [afterCommand, if_neg responds]
    simp only [finish, clearLatches, respond, goTo, List.append_assoc]
    rfl
  · intro noResponse bytes faults
    rw [replicate_add_three] at faults
    have first := wait_command start ⟨rfl, rfl, rfl⟩ hpre (oracle_eq faults bytes) (by simpa using allowedPre)
    refine ⟨_, _, rfl, first.run, ?_⟩
    rw [afterCommand, if_pos noResponse]
    rfl

end Sys2Proof.Machine
end

section
/-! ### The trace behind `DEVICE_NOT_RESPONDING` (42_handshake.md R148, 60_exceptions.md R170)

Backwards through the run, as for a successful `EXEC`: the ways each wait, with what follows it, can end. -/

namespace Sys2Proof.Machine

/-- A failed wait that counts from 0 has made exactly `CTS_MAX_POLLS` polls. -/
theorem WaitFailed.polls {s t : State} {reads : List Byte} {last : Byte} (failed : WaitFailed s t reads last)
    (fresh : s.polls = 0) :
    ∃ most : PNat, s.params.ctsMaxPolls = .bounded most ∧ reads.length + 1 = most := by
  have allowed := failed.allowed
  have bound := failed.bound
  unfold pollsAllowed at allowed bound
  cases limit : s.params.ctsMaxPolls with
  | unbounded => simp [limit] at bound
  | bounded most =>
    simp only [limit, fresh] at allowed bound
    exact ⟨most, rfl, by omega⟩

section
variable {s t : State} {k : Nat} {rlen : Byte} (whole : Host.Core.run Sys2Proof.core k s = .next t)
  (idle : t.phase = .idle) (untaken : t.delivered = s.delivered) (allowed : pollsAllowed s.params (s.polls + 1))
include whole idle untaken allowed

/-- The first wait and the command write end in a bus error, at the bound, or with the command written. -/
theorem command_outcome {cmd : Byte} {args : List Byte} (start : StartsPoll .command s)
    (latched : Latched cmd args rlen s) :
    t.out = some [0x04] ∨ (∃ reads last, WaitFailed s t reads last) ∨
      ∃ pre o j, allNotReady pre ∧
        Host.Core.run Sys2Proof.core j (afterCommand cmd args rlen pre o s) = .next t := by
  obtain busError | failed | ⟨pre, cs, cts, o, o', j, notReady, poll, rest⟩ :=
    wait_outcome start allowed whole idle untaken
  · exact .inl busError
  · exact .inr (.inl failed)
  · rcases draw : drawFault o' with ⟨_ | _, o''⟩
    case true =>
      obtain ⟨u, labels, answered⟩ := command_failed start poll latched draw
      exact .inl (answered.eq_of_run labels rest idle untaken ▸ answered.out)
    case false =>
      obtain ⟨i, -, rest⟩ := (command_written start poll latched draw).resume rest idle
      exact .inr (.inr ⟨pre, o'', i, notReady, rest⟩)

/-- The second wait and the response read end in a bus error, at the bound, or with `OK`. -/
theorem response_outcome (start : StartsPoll .response s) (latched : s.rlen = some rlen) :
    t.out = some [0x04] ∨ (∃ reads last, WaitFailed s t reads last) ∨
      ∃ result, t.out = some (0x00 :: result) := by
  obtain busError | failed | ⟨post, cs, cts, o, o', j, -, poll, rest⟩ :=
    wait_outcome start allowed whole idle untaken
  · exact .inl busError
  · exact .inr (.inl failed)
  · have next := start.waited post cs cts o
    rcases draw : drawFault o' with ⟨_ | _, o''⟩
    case true =>
      obtain ⟨u, labels, answered⟩ := response_failed next poll latched draw
      exact .inl (answered.eq_of_run labels rest idle untaken ▸ answered.out)
    case false =>
      have answered := answered_finish (s := s) (okFrame (drawBytes rlen.toNat o'').1)
        (u := { waited post cs cts o s with
          cs := false, oracle := (drawBytes rlen.toNat o'').2
          trace := (waited post cs cts o s).trace ++
            responseEvents s.params.opReadCmdBuff (drawBytes rlen.toNat o'').1 })
        (by exact start.released) rfl
      have stands := answered.eq_of_run (response_read next poll latched draw) rest idle untaken
      exact .inr (.inr ⟨_, stands ▸ answered.out⟩)

end

/-- Settles O44: only a wait that failed answers `[0x03]`, the first one or, behind a first wait that ended ready
and the command, the second. -/
theorem notRespondingTrace : Obligations.NotRespondingTrace := by
  intro s s1 t cmd rlen args k _ released accepted whole idle untaken out
  have start := startsPoll_accepted released accepted
  cases accepted
  obtain busError | ⟨reads, last, failed⟩ | ⟨pre, o, j, notReady, rest⟩ :=
    command_outcome whole idle untaken (pollsAllowed_one s.params) start ⟨rfl, rfl, rfl⟩
  · simp [out] at busError
  · obtain ⟨most, bounded, polls⟩ := failed.polls rfl
    exact ⟨most, reads, last, bounded, failed.notReady, failed.lastNotReady, polls, .inl failed.trace⟩
  by_cases noResponse : rlen = 0
  · have answered := afterCommand_answered cmd args pre o start.released noResponse
    have stands := answered.eq_of_run (.refl _) rest idle untaken
    simp [stands, answered.out] at out
  · have next := afterCommand_starts cmd args pre o start.released noResponse
    obtain busError | ⟨reads, last, failed⟩ | ⟨result, ok⟩ := response_outcome rest idle (by simpa using untaken)
      (by simpa using pollsAllowed_one s.params) next (afterCommand_rlen _ _ _ _ noResponse)
    · simp [out] at busError
    · obtain ⟨most, bounded, polls⟩ := failed.polls (afterCommand_polls ..)
      rw [afterCommand_params] at bounded
      refine ⟨most, reads, last, bounded, failed.notReady, failed.lastNotReady, polls,
        .inr ⟨noResponse, pre, notReady, ?_⟩⟩
      simpa using failed.trace
    · simp [out] at ok

end Sys2Proof.Machine
end

section
/-! ### History has no effect (60_exceptions.md R171, R175)

Every operation commutes with putting an earlier history in front of the state's own: it adds to the trace and
to the delivered responses at their ends, and reads neither. -/

namespace Sys2Proof.Machine

/-- `s` with an earlier history in front of its own. -/
def withPast (trace : List BusEvent) (delivered : List Frame) (s : State) : State :=
  { s with trace := trace ++ s.trace, delivered := delivered ++ s.delivered }

/-- An outcome with its next state changed. -/
def mapNext (f : State → State) : Host.Outcome State Fault Refusal → Host.Outcome State Fault Refusal
  | .next t => .next (f t)
  | .fault r => .fault r
  | .refused r => .refused r

/-- The result of a bus call with its state changed. -/
def BusResult.mapState {α : Type} (f : State → State) : BusResult α → BusResult α
  | .done value t => .done value (f t)
  | .failed t => .failed (f t)

section
variable (trace : List BusEvent) (delivered : List Frame) (s : State)

/-! #### What the history leaves alone -/

@[simp] theorem withPast_params : (withPast trace delivered s).params = s.params := rfl
@[simp] theorem withPast_phase : (withPast trace delivered s).phase = s.phase := rfl
@[simp] theorem withPast_point : (withPast trace delivered s).point = s.point := rfl
@[simp] theorem withPast_cs : (withPast trace delivered s).cs = s.cs := rfl
@[simp] theorem withPast_cts : (withPast trace delivered s).cts = s.cts := rfl
@[simp] theorem withPast_cmd : (withPast trace delivered s).cmd = s.cmd := rfl
@[simp] theorem withPast_args : (withPast trace delivered s).args = s.args := rfl
@[simp] theorem withPast_rlen : (withPast trace delivered s).rlen = s.rlen := rfl
@[simp] theorem withPast_resp : (withPast trace delivered s).resp = s.resp := rfl
@[simp] theorem withPast_out : (withPast trace delivered s).out = s.out := rfl
@[simp] theorem withPast_requests : (withPast trace delivered s).requests = s.requests := rfl
@[simp] theorem withPast_resetLine : (withPast trace delivered s).resetLine = s.resetLine := rfl

theorem boundReached_withPast : boundReached (withPast trace delivered s) = boundReached s := rfl

/-! #### The shared operations -/

theorem record_withPast (e : BusEvent) :
    record e (withPast trace delivered s) = withPast trace delivered (record e s) := by
  simp [record, withPast]

theorem busDeselect_withPast :
    busDeselect (withPast trace delivered s) = withPast trace delivered (busDeselect s) :=
  record_withPast trace delivered { s with cs := false } .desel

theorem busSelect_withPast :
    busSelect (withPast trace delivered s) = withPast trace delivered (busSelect s) :=
  record_withPast trace delivered { s with cs := true } .sel

theorem releaseSelect_withPast :
    releaseSelect (withPast trace delivered s) = withPast trace delivered (releaseSelect s) := by
  unfold releaseSelect
  rw [withPast_cs]
  split
  · exact busDeselect_withPast ..
  · rfl

theorem abort_withPast (e : BlockError) :
    abort e (withPast trace delivered s) = withPast trace delivered (abort e s) := by
  rw [abort, releaseSelect_withPast]
  rfl

theorem resetBlock_withPast :
    resetBlock (withPast trace delivered s) = withPast trace delivered (resetBlock s) := by
  rw [resetBlock, releaseSelect_withPast]
  rfl

theorem takeResponse_withPast (f : Frame) :
    takeResponse f (withPast trace delivered s) = withPast trace delivered (takeResponse f s) := by
  simp [takeResponse, withPast]

theorem busWrite_withPast (bs : List Byte) :
    busWrite bs (withPast trace delivered s) = (busWrite bs s).mapState (withPast trace delivered) := by
  cases fails : (drawFault s.oracle).1 with
  | true =>
    rw [busWrite_failed bs _ (by exact fails), busWrite_failed bs s fails]
    exact congrArg _ (record_withPast trace delivered { s with oracle := (drawFault s.oracle).2 } _)
  | false =>
    rw [busWrite_done bs _ (by exact fails), busWrite_done bs s fails]
    exact congrArg _ (record_withPast trace delivered { s with oracle := (drawFault s.oracle).2 } _)

theorem busRead_withPast (n : Nat) :
    busRead n (withPast trace delivered s) = (busRead n s).mapState (withPast trace delivered) := by
  cases fails : (drawFault s.oracle).1 with
  | true =>
    rw [busRead_failed n _ (by exact fails), busRead_failed n s fails]
    exact congrArg _ (record_withPast trace delivered { s with oracle := (drawFault s.oracle).2 } _)
  | false =>
    rw [busRead_done n _ (by exact fails), busRead_done n s fails]
    exact congrArg _ (record_withPast trace delivered
      { s with oracle := (drawBytes n (drawFault s.oracle).2).2 } _)

/-! #### The labels -/

theorem pollSelect_withPast (next : Point) :
    pollSelect next (withPast trace delivered s) = withPast trace delivered (pollSelect next s) :=
  congrArg (goTo next) (busSelect_withPast trace delivered { s with polls := s.polls + 1 })

theorem pollAsk_withPast (next : Point) :
    pollAsk next (withPast trace delivered s) = withPast trace delivered (pollAsk next s) := by
  unfold pollAsk
  rw [busWrite_withPast, withPast_params]
  cases busWrite [s.params.opReadCmdBuff] s with
  | done _ t => rfl
  | failed t => exact abort_withPast trace delivered t _

theorem pollSleep_withPast (next : Point) :
    pollSleep next (withPast trace delivered s) = withPast trace delivered (pollSleep next s) :=
  congrArg (goTo next) (record_withPast trace delivered s _)

theorem pollAgain_withPast (sleep : Point) :
    pollAgain sleep (withPast trace delivered s) = withPast trace delivered (pollAgain sleep s) := by
  unfold pollAgain
  rw [boundReached_withPast]
  split
  · exact abort_withPast ..
  · rfl

theorem seqA4_withPast : seqA4 (withPast trace delivered s) = mapNext (withPast trace delivered) (seqA4 s) := by
  unfold seqA4
  rw [withPast_cts, busDeselect_withPast]
  cases s.cts with
  | none => rfl
  | some b =>
    dsimp only
    split
    · rfl
    · exact congrArg _ (pollAgain_withPast ..)

theorem seqB2_withPast : seqB2 (withPast trace delivered s) = mapNext (withPast trace delivered) (seqB2 s) := by
  unfold seqB2
  rw [withPast_cmd,
    withPast_args]
  cases s.cmd with
  | none => rfl
  | some cmd =>
    cases s.args with
    | none => rfl
    | some args =>
      dsimp only
      rw [busWrite_withPast]
      cases busWrite (cmd :: args) s with
      | done _ t => rfl
      | failed t => exact congrArg _ (abort_withPast trace delivered t _)

theorem seqB3_withPast : seqB3 (withPast trace delivered s) = mapNext (withPast trace delivered) (seqB3 s) := by
  unfold seqB3
  rw [withPast_rlen, busDeselect_withPast]
  cases s.rlen with
  | none => rfl
  | some rlen =>
    dsimp only
    split <;> rfl

theorem seqC3_withPast : seqC3 (withPast trace delivered s) = mapNext (withPast trace delivered) (seqC3 s) := by
  unfold seqC3
  rw [busRead_withPast]
  cases busRead 1 s with
  | failed t => exact congrArg _ (abort_withPast trace delivered t _)
  | done bs t =>
    simp only [BusResult.mapState]
    split <;> rfl

theorem seqC4_withPast : seqC4 (withPast trace delivered s) = mapNext (withPast trace delivered) (seqC4 s) := by
  unfold seqC4
  rw [withPast_rlen]
  cases s.rlen with
  | none => rfl
  | some rlen =>
    dsimp only
    rw [busRead_withPast]
    cases busRead rlen.toNat s with
    | done _ t => rfl
    | failed t => exact congrArg _ (abort_withPast trace delivered t _)

theorem runPoint_withPast (p : Point) : runPoint p (withPast trace delivered s) =
    mapNext (withPast trace delivered) (runPoint p s) := by
  cases p with
  | a1 | c1 => exact congrArg _ (pollSelect_withPast ..)
  | a2 | c2 => exact congrArg _ (pollAsk_withPast ..)
  | a5 | c7 => exact congrArg _ (pollSleep_withPast ..)
  | a3 =>
    simp only [runPoint, seqA3, busRead_withPast]
    cases busRead 1 s with
    | done _ t => rfl
    | failed t => exact congrArg _ (abort_withPast trace delivered t _)
  | a4 => exact seqA4_withPast ..
  | b1 => exact congrArg (Host.Outcome.next ∘ goTo .b2) (busSelect_withPast ..)
  | b2 => exact seqB2_withPast ..
  | b3 => exact seqB3_withPast ..
  | c3 => exact seqC3_withPast ..
  | c4 => exact seqC4_withPast ..
  | c5 =>
    simp only [runPoint, seqC5, busDeselect_withPast, withPast_resp]
    cases s.resp <;> rfl
  | c6 => exact congrArg _ ((congrArg _ (busDeselect_withPast ..)).trans (pollAgain_withPast ..))

/-! #### The step -/

theorem exec_withPast (i : Instr) : exec i (withPast trace delivered s) =
    mapNext (withPast trace delivered) (exec i s) := by
  cases i with
  | crc | pktBuild | pktCheck | pllFreq | exec => rfl
  | pllParams ch =>
    cases parameters : pllParameters ch with
    | ok p => rw [exec_pllParams_of_ok _ parameters, exec_pllParams_of_ok _ parameters]; rfl
    | error e =>
      rw [exec_pllParams_of_error _ parameters, exec_pllParams_of_error _ parameters, abort_withPast]
      rfl
  | pllRegs ch =>
    cases parameters : pllParameters ch with
    | ok p => rw [exec_pllRegs_of_ok _ parameters, exec_pllRegs_of_ok _ parameters]; rfl
    | error e =>
      rw [exec_pllRegs_of_error _ parameters, exec_pllRegs_of_error _ parameters, abort_withPast]
      rfl

theorem acceptRequest_withPast (f : Frame) : acceptRequest f (withPast trace delivered s) =
    mapNext (withPast trace delivered) (acceptRequest f s) := by
  cases decoded : decode f with
  | ok i => rw [acceptRequest_ok f i _ decoded, acceptRequest_ok f i _ decoded, exec_withPast]
  | error e => rw [acceptRequest_illFormed f e _ decoded, acceptRequest_illFormed f e _ decoded]; rfl

theorem idleStep_withPast :
    idleStep (withPast trace delivered s) = mapNext (withPast trace delivered) (idleStep s) := by
  unfold idleStep
  rw [withPast_out,
    withPast_requests]
  cases s.out with
  | some f => exact congrArg _ (takeResponse_withPast ..)
  | none =>
    cases s.requests with
    | nil => rfl
    | cons f rest => exact acceptRequest_withPast trace delivered { s with out := none, requests := rest } f

theorem sequencerStep_withPast :
    sequencerStep (withPast trace delivered s) = mapNext (withPast trace delivered) (sequencerStep s) := by
  unfold sequencerStep
  rw [withPast_point]
  cases s.point with
  | none => rfl
  | some p => exact runPoint_withPast ..

theorem releasedStep_withPast :
    releasedStep (withPast trace delivered s) = mapNext (withPast trace delivered) (releasedStep s) := by
  unfold releasedStep
  rw [withPast_phase]
  split
  · exact idleStep_withPast ..
  · exact sequencerStep_withPast ..

theorem step_withPast :
    step (withPast trace delivered s) = mapNext (withPast trace delivered) (step s) := by
  unfold step clockedStep
  rw [withPast_resetLine]
  rcases s.resetLine with _ | ⟨_ | _, rest⟩
  · exact releasedStep_withPast ..
  · exact releasedStep_withPast trace delivered { s with resetLine := rest }
  · exact congrArg _ (resetBlock_withPast trace delivered { s with resetLine := rest })

end

/-- Settles O49: the statement's outcome is `mapNext`, written out. -/
theorem historyHasNoEffect : Obligations.HistoryHasNoEffect := by
  intro s trace delivered
  refine (step_withPast trace delivered s).trans ?_
  cases step s <;> rfl

end Sys2Proof.Machine
end
